-- ==== Sys2Proof/Word.lean ====
section
/-! DEFINITION. The word types of the machine: every value is an unsigned number of a stated width
(00_scope.md R4, R5; register width 8, `I` and `PC` 16 bits: 10_state.md R10, R12, R13). -/

namespace Sys2Proof

/-- A byte: a general register, a timer, a memory cell (R10, R16, R18). -/
abbrev Byte := BitVec 8

/-- 16 bits: `PC`, `I`, a stack entry, an instruction word (R12, R13, R14, R61). -/
abbrev Word := BitVec 16

/-- The fields `x` and `y`: the number of a general register; every value is a register (R62, R63). -/
abbrev Reg := BitVec 4

/-- The field `n`, a count 0 to 15 (R62, R63). -/
abbrev Nibble := BitVec 4

/-- The field `nnn`, a 12-bit absolute address (R62, R63). -/
abbrev Addr12 := BitVec 12

/-- The index of a key flag, 0 to 15 (R20, R221). -/
abbrev KeyIdx := BitVec 4

end Sys2Proof
end

