-- ==== Sys2Proof/Syntax.lean ====
section
/-! DEFINITION. The instruction set: one constructor for each of the 34 rows of spec/opcode_table.json
(30_encoding.md R65), in the table's order. Register numbers, counts, immediates and addresses have the widths of
R62; every value of every field is legal (R63, R200). -/

namespace Sys2Proof

inductive Instr where
  /-- 00E0 CLS (R150). -/
  | cls
  /-- 00EE RET (R101). -/
  | ret
  /-- 1nnn JP nnn (R102). -/
  | jp (nnn : Addr12)
  /-- 2nnn CALL nnn (R103). -/
  | call (nnn : Addr12)
  /-- 3xkk SE Vx, kk (R111). -/
  | seKk (x : Reg) (kk : Byte)
  /-- 4xkk SNE Vx, kk (R112). -/
  | sneKk (x : Reg) (kk : Byte)
  /-- 5xy0 SE Vx, Vy (R113). -/
  | seVy (x y : Reg)
  /-- 6xkk LD Vx, kk (R121). -/
  | ldKk (x : Reg) (kk : Byte)
  /-- 7xkk ADD Vx, kk (R122). -/
  | addKk (x : Reg) (kk : Byte)
  /-- 8xy0 LD Vx, Vy (R123). -/
  | ldVy (x y : Reg)
  /-- 8xy1 OR Vx, Vy (R124). -/
  | orVy (x y : Reg)
  /-- 8xy2 AND Vx, Vy (R125). -/
  | andVy (x y : Reg)
  /-- 8xy3 XOR Vx, Vy (R126). -/
  | xorVy (x y : Reg)
  /-- 8xy4 ADD Vx, Vy (R127). -/
  | addVy (x y : Reg)
  /-- 8xy5 SUB Vx, Vy (R128). -/
  | subVy (x y : Reg)
  /-- 8xy6 SHR Vx, Vy (R129). -/
  | shrVy (x y : Reg)
  /-- 8xy7 SUBN Vx, Vy (R130). -/
  | subnVy (x y : Reg)
  /-- 8xyE SHL Vx, Vy (R131). -/
  | shlVy (x y : Reg)
  /-- 9xy0 SNE Vx, Vy (R114). -/
  | sneVy (x y : Reg)
  /-- Annn LD I, nnn (R140). -/
  | ldI (nnn : Addr12)
  /-- Bnnn JP V0, nnn: the register added is the one `nnn[11:8]` names (R104). -/
  | jpV0 (nnn : Addr12)
  /-- Cxkk RND Vx, kk (R132). -/
  | rnd (x : Reg) (kk : Byte)
  /-- Dxyn DRW Vx, Vy, n (R151). -/
  | drw (x y : Reg) (n : Nibble)
  /-- Ex9E SKP Vx (R115). -/
  | skp (x : Reg)
  /-- ExA1 SKNP Vx (R116). -/
  | sknp (x : Reg)
  /-- Fx07 LD Vx, DT (R160). -/
  | ldVxDt (x : Reg)
  /-- Fx0A LD Vx, K, the key wait (R161). -/
  | ldVxK (x : Reg)
  /-- Fx15 LD DT, Vx (R162). -/
  | ldDtVx (x : Reg)
  /-- Fx18 LD ST, Vx (R163). -/
  | ldStVx (x : Reg)
  /-- Fx1E ADD I, Vx (R141). -/
  | addI (x : Reg)
  /-- Fx29 LD F, Vx (R142). -/
  | ldF (x : Reg)
  /-- Fx33 LD B, Vx (R143). -/
  | ldB (x : Reg)
  /-- Fx55 LD [I], Vx (R144); `x` is the number of the last register stored. -/
  | ldMemVx (x : Reg)
  /-- Fx65 LD Vx, [I] (R145); `x` is the number of the last register loaded. -/
  | ldVxMem (x : Reg)
  deriving DecidableEq, Repr

end Sys2Proof
end

