-- ==== Sys2Proof/WellFormed.lean ====
section
/-! DEFINITION. Well-formedness. A term of `Instr` is well-formed by its types: every value of `x`, `y`, `n`, `kk` and
`nnn` is legal (30_encoding.md R63; 60_exceptions.md R200, "no illegal-operand condition"). What can be ill-formed is a
WORD: the 21582 words of 30_encoding.md R71 are no instruction. `isInstructionWord` is written from R71's list, family by
family, and not from the decoder, so that the two can be held against each other. -/

namespace Sys2Proof

/-- Families 5 and 9: the low nibble must be 0 (R71, decision D17). -/
def lowNibbleZero (op : Word) : Bool :=
  op.extractLsb' 0 4 == 0#4

/-- Family 8: the low nibble must not be 8, 9, A, B, C, D or F (R71). -/
def aluSelectorOk (op : Word) : Bool :=
  !([0x8#4, 0x9#4, 0xA#4, 0xB#4, 0xC#4, 0xD#4, 0xF#4].contains (op.extractLsb' 0 4))

/-- Family 0: only 00E0 and 00EE (R71). -/
def systemWordOk (op : Word) : Bool :=
  op == 0x00E0#16 || op == 0x00EE#16

/-- Family E: the low byte must be 9E or A1 (R71). -/
def keySelectorOk (op : Word) : Bool :=
  [0x9E#8, 0xA1#8].contains (op.extractLsb' 0 8)

/-- Family F: the low byte must be one of the nine selectors (R71). -/
def miscSelectorOk (op : Word) : Bool :=
  [0x07#8, 0x0A#8, 0x15#8, 0x18#8, 0x1E#8, 0x29#8, 0x33#8, 0x55#8, 0x65#8].contains (op.extractLsb' 0 8)

/-- Whether a word is an instruction: not one of the unmatched words of R71. Families 1, 2, 3, 4, 6, 7, A, B, C and D
hold no unmatched word. -/
def isInstructionWord (op : Word) : Bool :=
  match (op.extractLsb' 12 4).toNat with
  | 0x0 => systemWordOk op
  | 0x5 => lowNibbleZero op
  | 0x8 => aluSelectorOk op
  | 0x9 => lowNibbleZero op
  | 0xE => keySelectorOk op
  | 0xF => miscSelectorOk op
  | _ => true

end Sys2Proof
end

