-- ==== Sys2Proof/Decode.lean ====
section
/-! DEFINITION. The decoder, total on any bytes and rejecting by name, and after it the encoder and the table of masks,
from 30_encoding.md: fields R62, formats R64, encodings R65, unmatched words R70; byte order 20_memory.md R42. -/

namespace Sys2Proof

/-- Why bytes are no instruction. -/
inductive DecodeError where
  /-- The word matches no row of the opcode table (R70); running it is a no-op, not a stop. -/
  | unmatched (op : Word)
  /-- Fewer than the two bytes every instruction has (R61). -/
  | truncated
  deriving DecidableEq, Repr

/-- The family, `op[15:12]` (R62). -/
def fieldFamily (op : Word) : Nibble := op.extractLsb' 12 4

/-- `x`, `op[11:8]` (R62). -/
def fieldX (op : Word) : Reg := op.extractLsb' 8 4

/-- `y`, `op[7:4]` (R62). -/
def fieldY (op : Word) : Reg := op.extractLsb' 4 4

/-- `n`, `op[3:0]` (R62). -/
def fieldN (op : Word) : Nibble := op.extractLsb' 0 4

/-- `kk`, `op[7:0]` (R62). -/
def fieldKk (op : Word) : Byte := op.extractLsb' 0 8

/-- `nnn`, `op[11:0]` (R62). -/
def fieldNnn (op : Word) : Addr12 := op.extractLsb' 0 12

/-- Family 0: the whole word is fixed (R64 format Z). -/
def decodeSystem (op : Word) : Option Instr :=
  if op = 0x00E0#16 then some .cls
  else if op = 0x00EE#16 then some .ret
  else none

/-- Family 8: `n` selects the operation (R65). -/
def decodeAlu (op : Word) : Option Instr :=
  match (fieldN op).toNat with
  | 0x0 => some (.ldVy (fieldX op) (fieldY op))
  | 0x1 => some (.orVy (fieldX op) (fieldY op))
  | 0x2 => some (.andVy (fieldX op) (fieldY op))
  | 0x3 => some (.xorVy (fieldX op) (fieldY op))
  | 0x4 => some (.addVy (fieldX op) (fieldY op))
  | 0x5 => some (.subVy (fieldX op) (fieldY op))
  | 0x6 => some (.shrVy (fieldX op) (fieldY op))
  | 0x7 => some (.subnVy (fieldX op) (fieldY op))
  | 0xE => some (.shlVy (fieldX op) (fieldY op))
  | _ => none

/-- Family E: the low byte selects the operation (R65). -/
def decodeKey (op : Word) : Option Instr :=
  match (fieldKk op).toNat with
  | 0x9E => some (.skp (fieldX op))
  | 0xA1 => some (.sknp (fieldX op))
  | _ => none

/-- Family F: the low byte selects the operation (R65). -/
def decodeMisc (op : Word) : Option Instr :=
  match (fieldKk op).toNat with
  | 0x07 => some (.ldVxDt (fieldX op))
  | 0x0A => some (.ldVxK (fieldX op))
  | 0x15 => some (.ldDtVx (fieldX op))
  | 0x18 => some (.ldStVx (fieldX op))
  | 0x1E => some (.addI (fieldX op))
  | 0x29 => some (.ldF (fieldX op))
  | 0x33 => some (.ldB (fieldX op))
  | 0x55 => some (.ldMemVx (fieldX op))
  | 0x65 => some (.ldVxMem (fieldX op))
  | _ => none

/-- The instruction a 16-bit word is, if any (R65); `none` is an unmatched word (R70). Families 5 and 9 match only with
a low nibble of 0 (decision D17, 90_conflicts.md C4). -/
def decodeWord (op : Word) : Option Instr :=
  match (fieldFamily op).toNat with
  | 0x0 => decodeSystem op
  | 0x1 => some (.jp (fieldNnn op))
  | 0x2 => some (.call (fieldNnn op))
  | 0x3 => some (.seKk (fieldX op) (fieldKk op))
  | 0x4 => some (.sneKk (fieldX op) (fieldKk op))
  | 0x5 => if fieldN op = 0#4 then some (.seVy (fieldX op) (fieldY op)) else none
  | 0x6 => some (.ldKk (fieldX op) (fieldKk op))
  | 0x7 => some (.addKk (fieldX op) (fieldKk op))
  | 0x8 => decodeAlu op
  | 0x9 => if fieldN op = 0#4 then some (.sneVy (fieldX op) (fieldY op)) else none
  | 0xA => some (.ldI (fieldNnn op))
  | 0xB => some (.jpV0 (fieldNnn op))
  | 0xC => some (.rnd (fieldX op) (fieldKk op))
  | 0xD => some (.drw (fieldX op) (fieldY op) (fieldN op))
  | 0xE => decodeKey op
  | 0xF => decodeMisc op
  | _ => none

/-- The instruction word two bytes make: the byte at the lower address is `op[15:8]` (20_memory.md R42). -/
def wordOfBytes (hi lo : Byte) : Word := hi ++ lo

/-- The byte of a word that stands at the lower address (R42). -/
def highByte (op : Word) : Byte := op.extractLsb' 8 8

/-- The byte of a word that stands at the higher address (R42). -/
def lowByte (op : Word) : Byte := op.extractLsb' 0 8

/-- The decoder on bytes: the instruction the first two bytes are, and the bytes after it, or why they are none. -/
def decode : List Byte → Except DecodeError (Instr × List Byte)
  | hi :: lo :: rest =>
    match decodeWord (wordOfBytes hi lo) with
    | some i => .ok (i, rest)
    | none => .error (.unmatched (wordOfBytes hi lo))
  | _ => .error .truncated

/-- The instruction read from a table row's bits: the one word of the row is `w`, stored with its byte `w[15:8]` at the
lower address (R42). A row of more than 16 bits does not exist (R61). -/
def decodeTableWord (nbits w : Nat) : Option Instr :=
  if nbits ≤ 16 then
    match decode [highByte (BitVec.ofNat 16 (w % 2 ^ nbits)), lowByte (BitVec.ofNat 16 (w % 2 ^ nbits))] with
    | .ok (i, _) => some i
    | .error _ => none
  else none

/-- Format A: family and `nnn` (R64). -/
def formatA (family : Nibble) (nnn : Addr12) : Word := family ++ nnn

/-- Formats XK and X: family, `x` and the low byte (R64). -/
def formatXK (family : Nibble) (x : Reg) (kk : Byte) : Word := family ++ x ++ kk

/-- Formats XY and XYN: family, `x`, `y` and the low nibble (R64). -/
def formatXYN (family : Nibble) (x y : Reg) (n : Nibble) : Word := family ++ x ++ y ++ n

/-- The word of an instruction (R65). -/
def encode : Instr → Word
  | .cls => 0x00E0#16
  | .ret => 0x00EE#16
  | .jp nnn => formatA 0x1#4 nnn
  | .call nnn => formatA 0x2#4 nnn
  | .seKk x kk => formatXK 0x3#4 x kk
  | .sneKk x kk => formatXK 0x4#4 x kk
  | .seVy x y => formatXYN 0x5#4 x y 0x0#4
  | .ldKk x kk => formatXK 0x6#4 x kk
  | .addKk x kk => formatXK 0x7#4 x kk
  | .ldVy x y => formatXYN 0x8#4 x y 0x0#4
  | .orVy x y => formatXYN 0x8#4 x y 0x1#4
  | .andVy x y => formatXYN 0x8#4 x y 0x2#4
  | .xorVy x y => formatXYN 0x8#4 x y 0x3#4
  | .addVy x y => formatXYN 0x8#4 x y 0x4#4
  | .subVy x y => formatXYN 0x8#4 x y 0x5#4
  | .shrVy x y => formatXYN 0x8#4 x y 0x6#4
  | .subnVy x y => formatXYN 0x8#4 x y 0x7#4
  | .shlVy x y => formatXYN 0x8#4 x y 0xE#4
  | .sneVy x y => formatXYN 0x9#4 x y 0x0#4
  | .ldI nnn => formatA 0xA#4 nnn
  | .jpV0 nnn => formatA 0xB#4 nnn
  | .rnd x kk => formatXK 0xC#4 x kk
  | .drw x y n => formatXYN 0xD#4 x y n
  | .skp x => formatXK 0xE#4 x 0x9E#8
  | .sknp x => formatXK 0xE#4 x 0xA1#8
  | .ldVxDt x => formatXK 0xF#4 x 0x07#8
  | .ldVxK x => formatXK 0xF#4 x 0x0A#8
  | .ldDtVx x => formatXK 0xF#4 x 0x15#8
  | .ldStVx x => formatXK 0xF#4 x 0x18#8
  | .addI x => formatXK 0xF#4 x 0x1E#8
  | .ldF x => formatXK 0xF#4 x 0x29#8
  | .ldB x => formatXK 0xF#4 x 0x33#8
  | .ldMemVx x => formatXK 0xF#4 x 0x55#8
  | .ldVxMem x => formatXK 0xF#4 x 0x65#8

/-- The two bytes of an instruction, lower address first (R42). -/
def encodeBytes (i : Instr) : List Byte := [highByte (encode i), lowByte (encode i)]

/-- The "match" and "mask" columns of R65, row by row. -/
def rowOf : Instr → Word × Word
  | .cls => (0x00E0#16, 0xFFFF#16)
  | .ret => (0x00EE#16, 0xFFFF#16)
  | .jp _ => (0x1000#16, 0xF000#16)
  | .call _ => (0x2000#16, 0xF000#16)
  | .seKk _ _ => (0x3000#16, 0xF000#16)
  | .sneKk _ _ => (0x4000#16, 0xF000#16)
  | .seVy _ _ => (0x5000#16, 0xF00F#16)
  | .ldKk _ _ => (0x6000#16, 0xF000#16)
  | .addKk _ _ => (0x7000#16, 0xF000#16)
  | .ldVy _ _ => (0x8000#16, 0xF00F#16)
  | .orVy _ _ => (0x8001#16, 0xF00F#16)
  | .andVy _ _ => (0x8002#16, 0xF00F#16)
  | .xorVy _ _ => (0x8003#16, 0xF00F#16)
  | .addVy _ _ => (0x8004#16, 0xF00F#16)
  | .subVy _ _ => (0x8005#16, 0xF00F#16)
  | .shrVy _ _ => (0x8006#16, 0xF00F#16)
  | .subnVy _ _ => (0x8007#16, 0xF00F#16)
  | .shlVy _ _ => (0x800E#16, 0xF00F#16)
  | .sneVy _ _ => (0x9000#16, 0xF00F#16)
  | .ldI _ => (0xA000#16, 0xF000#16)
  | .jpV0 _ => (0xB000#16, 0xF000#16)
  | .rnd _ _ => (0xC000#16, 0xF000#16)
  | .drw _ _ _ => (0xD000#16, 0xF000#16)
  | .skp _ => (0xE09E#16, 0xF0FF#16)
  | .sknp _ => (0xE0A1#16, 0xF0FF#16)
  | .ldVxDt _ => (0xF007#16, 0xF0FF#16)
  | .ldVxK _ => (0xF00A#16, 0xF0FF#16)
  | .ldDtVx _ => (0xF015#16, 0xF0FF#16)
  | .ldStVx _ => (0xF018#16, 0xF0FF#16)
  | .addI _ => (0xF01E#16, 0xF0FF#16)
  | .ldF _ => (0xF029#16, 0xF0FF#16)
  | .ldB _ => (0xF033#16, 0xF0FF#16)
  | .ldMemVx _ => (0xF055#16, 0xF0FF#16)
  | .ldVxMem _ => (0xF065#16, 0xF0FF#16)

/-- Whether a word matches the row of an instruction: `(op & mask) == match` (R60, R65). -/
def matchesRow (op : Word) (i : Instr) : Bool := op &&& (rowOf i).2 == (rowOf i).1

end Sys2Proof
end

