-- ==== Sys2Proof/Config.lean ====
section
/-! DEFINITION. What is fixed for this hardware (the parameters of 00_scope.md R3 at the values its table gives) and the
one free value, the random byte (10_state.md R29). The font bytes, also a parameter of R3, stand in Machine/Font.lean. -/

namespace Sys2Proof

/-- `MEM_SIZE`: 4096 bytes, 0x000 to 0xFFF (R3). -/
abbrev Config.memSize : Nat := 0x1000

/-- `LOAD_BASE`: first program byte and the reset value of `PC` (R3). -/
abbrev Config.loadBase : Nat := 0x200

/-- `GLYPH_BYTES`: bytes of one glyph (R3). -/
abbrev Config.glyphBytes : Nat := 5

/-- `STACK_DEPTH`: stack entries (R3). -/
abbrev Config.stackDepth : Nat := 16

/-- `DISP_W`: display columns (R3). -/
abbrev Config.dispW : Nat := 64

/-- `DISP_H`: display rows (R3). -/
abbrev Config.dispH : Nat := 32

/-- The free value: the random byte the `k`-th executed RND samples. It has no body, so nothing constrains it and
nothing can be proved of it but that it is a byte (10_state.md R29, decision D9; assumption 1). -/
opaque Config.rnd : Nat → Byte

end Sys2Proof
end

