-- ==== Sys2Proof/Machine/State.lean ====
section
/-! DEFINITION. The state of the machine (10_state.md R10 to R23, R25), as plain data, and its value after power-on.
Two fields are the model's own and not the spec's: `rndCount` (assumption 1) and `schedule` (assumption 2). -/

namespace Sys2Proof.Machine

/-- No step of this machine stops it without a next state: the fatal conditions of the spec set the register `FAULT`
and leave a state the spec describes (60_exceptions.md R201 to R204), so they are next states (assumption 3) and `Fault`
has no constructor. -/
inductive Fault where
  deriving DecidableEq, Repr

/-- Why an instruction has no meaning in the model. -/
inductive Refusal where
  /-- Raised by an arm of `exec` whose instruction is not modelled yet; safe. No arm raises it now. -/
  | notModelled (mnemonic : String)
  deriving DecidableEq, Repr

/-- The fatal conditions, the values of `FAULT` other than None (R22, R200). -/
inductive Fatal where
  /-- CALL with `SP = 16` (R201). -/
  | stackOverflow
  /-- RET with `SP = 0` (R202). -/
  | stackUnderflow
  /-- An effective address above 0xFFF, in a fetch or in a data access (R203). -/
  | memoryRange
  deriving DecidableEq, Repr

/-- The events by which anything outside the core acts on it (R220). A debug read changes nothing and is no event here
(R27, R224). -/
inductive HostEvent where
  /-- `Step()`: one instruction (R60). -/
  | step
  /-- `Reset()` (R240). -/
  | reset
  /-- `LoadRom(bytes)` (R245). -/
  | loadRom (bytes : List Byte)
  /-- `TimerTick()` (R212). -/
  | timerTick
  /-- `KeyDown(k)` (R221). -/
  | keyDown (k : KeyIdx)
  /-- `KeyUp(k)` (R221). -/
  | keyUp (k : KeyIdx)
  /-- `ClearRedraw()` (R222). -/
  | clearRedraw
  deriving DecidableEq, Repr

/-- The 4096-byte memory as the list of the bytes that differ from what reset leaves there, addresses strictly rising
(R18, R25; `Memory.wf` says the form). -/
abbrev Memory := List Host.Cell

structure State where
  /-- `V[0]` to `V[15]` (R10); `V[15]` is also the flag (R11). -/
  v : Vector Byte 16
  /-- `I`, the index register (R12). -/
  i : Word
  /-- `PC`, the program counter (R13). -/
  pc : Word
  /-- `Stack[0]` to `Stack[15]`, a space of its own (R14). -/
  stack : Vector Word 16
  /-- `SP`, the number of return addresses on the stack, 0 to 16 (R15). -/
  sp : Fin 17
  /-- `DT`, the delay timer (R16). -/
  dt : Byte
  /-- `ST`, the sound timer (R17). -/
  st : Byte
  /-- `Mem` (R18). -/
  mem : Memory
  /-- `Disp`, row by row from the top; bit `px` of row `py` is the cell `Disp[px, py]` (R19; assumption 17). -/
  disp : Vector (BitVec 64) 32
  /-- `Keys`, a 16-bit latch; bit `k` is `Keys[k]` (R20). -/
  keys : BitVec 16
  /-- `REDRAW` (R21). -/
  redraw : Bool
  /-- `WAITKEY` (R23). -/
  waitkey : Bool
  /-- `FAULT`; `none` is None (R22). -/
  fault : Option Fatal
  /-- THE MODEL'S OWN: how many random bytes have been sampled (assumption 1). -/
  rndCount : Nat
  /-- THE MODEL'S OWN: the host events still to come; when it is empty the next event is `Step` (assumption 2). -/
  schedule : List HostEvent
  deriving DecidableEq, Repr

/-- The state after power-on: a `Reset()` with all keys clear (R25, R240, R241). Memory lists nothing: an unlisted
address reads as what reset leaves there. -/
def State.reset : State where
  v := Vector.replicate 16 0#8
  i := 0#16
  pc := BitVec.ofNat 16 Config.loadBase
  stack := Vector.replicate 16 0#16
  sp := 0
  dt := 0#8
  st := 0#8
  mem := []
  disp := Vector.replicate 32 0#64
  keys := 0#16
  redraw := false
  waitkey := false
  fault := none
  rndCount := 0
  schedule := []

/-- The answer of a meaning and of a step. -/
abbrev Result := Host.Outcome State Fault Refusal

end Sys2Proof.Machine
end

