-- ==== Sys2Proof/Machine/Font.lean ====
section
/-! DEFINITION. The font glyphs and what an address that memory does not list reads as (20_memory.md R41, R55; 10_state.md
R25). The 80 bytes are the default the spec gives the parameter `FONT` from general knowledge (decision D13): PRESUMED,
assumption 5. -/

namespace Sys2Proof.Machine

/-- The sixteen glyphs, five bytes each, top row first (R55, the table of its default). -/
def glyphs : List (List Byte) :=
  [ [0xF0#8, 0x90#8, 0x90#8, 0x90#8, 0xF0#8],   -- 0
    [0x20#8, 0x60#8, 0x20#8, 0x20#8, 0x70#8],   -- 1
    [0xF0#8, 0x10#8, 0xF0#8, 0x80#8, 0xF0#8],   -- 2
    [0xF0#8, 0x10#8, 0xF0#8, 0x10#8, 0xF0#8],   -- 3
    [0x90#8, 0x90#8, 0xF0#8, 0x10#8, 0x10#8],   -- 4
    [0xF0#8, 0x80#8, 0xF0#8, 0x10#8, 0xF0#8],   -- 5
    [0xF0#8, 0x80#8, 0xF0#8, 0x90#8, 0xF0#8],   -- 6
    [0xF0#8, 0x10#8, 0x20#8, 0x40#8, 0x40#8],   -- 7
    [0xF0#8, 0x90#8, 0xF0#8, 0x90#8, 0xF0#8],   -- 8
    [0xF0#8, 0x90#8, 0xF0#8, 0x10#8, 0xF0#8],   -- 9
    [0xF0#8, 0x90#8, 0xF0#8, 0x90#8, 0x90#8],   -- A
    [0xE0#8, 0x90#8, 0xE0#8, 0x90#8, 0xE0#8],   -- B
    [0xF0#8, 0x80#8, 0x80#8, 0x80#8, 0xF0#8],   -- C
    [0xE0#8, 0x90#8, 0x90#8, 0x90#8, 0xE0#8],   -- D
    [0xF0#8, 0x80#8, 0xF0#8, 0x80#8, 0xF0#8],   -- E
    [0xF0#8, 0x80#8, 0xF0#8, 0x80#8, 0x80#8] ]  -- F

/-- `FONT[0..79]` (R3, R55): glyph `d` starts at `5 * d`. -/
def font : List Byte := glyphs.flatten

/-- What reset leaves at an address, and so what an address memory does not list reads as: the glyph byte at 0x000 to
0x04F, 0 everywhere else (R25, R240; the 0 is decision D12, assumption 6). -/
def resetByte (a : Nat) : Byte := font.getD a 0#8

end Sys2Proof.Machine
end

