-- ==== Sys2Proof/Machine/Ops.lean ====
section
/-! DEFINITION. The named operations over the state: one update per field, registers, memory with its address translator,
the stack, the display cells, the keys, and raising a fatal condition (00_scope.md R6, the pseudocode primitives). -/

namespace Sys2Proof.Machine

/-! ### One update per field -/

/-- Replaces the register file. -/
def setRegs (s : State) (r : Vector Byte 16) : State := { s with v := r }

/-- `I <- w` (R6). -/
def setI (s : State) (w : Word) : State := { s with i := w }

/-- `PC <- w` (R6). -/
def setPc (s : State) (w : Word) : State := { s with pc := w }

/-- Replaces the stack entries. -/
def setStack (s : State) (k : Vector Word 16) : State := { s with stack := k }

/-- `SP <- n` (R6). -/
def setSp (s : State) (n : Fin 17) : State := { s with sp := n }

/-- `DT <- b` (R6). -/
def setDt (s : State) (b : Byte) : State := { s with dt := b }

/-- `ST <- b` (R6). -/
def setSt (s : State) (b : Byte) : State := { s with st := b }

/-- Replaces the memory. -/
def setMem (s : State) (m : Memory) : State := { s with mem := m }

/-- Replaces the display. -/
def setDisp (s : State) (d : Vector (BitVec 64) 32) : State := { s with disp := d }

/-- Replaces the key flags. -/
def setKeys (s : State) (k : BitVec 16) : State := { s with keys := k }

/-- `REDRAW <- b` (R6). -/
def setRedraw (s : State) (b : Bool) : State := { s with redraw := b }

/-- `WAITKEY <- b` (R6). -/
def setWaitkey (s : State) (b : Bool) : State := { s with waitkey := b }

/-- `FAULT <- f` (R6). -/
def setFault (s : State) (f : Option Fatal) : State := { s with fault := f }

/-- Sets the model's count of sampled random bytes (assumption 1). -/
def setRndCount (s : State) (n : Nat) : State := { s with rndCount := n }

/-- Sets the model's list of host events still to come (assumption 2). -/
def setSchedule (s : State) (l : List HostEvent) : State := { s with schedule := l }

/-! ### General registers -/

/-- `V[r]` (R6, R10). -/
def getV (s : State) (r : Reg) : Byte := s.v[r.toNat]'r.isLt

/-- `V[r] <- b` (R6, R10). No register is hard-wired. -/
def setV (s : State) (r : Reg) (b : Byte) : State := setRegs s (s.v.set r.toNat b r.isLt)

/-- `V[15]`, the flag register (R11). -/
def flagReg : Reg := 15#4

/-! ### Memory -/

/-- Whether `Translate` finds an address: the identity to 0xFFF, out of range above (R44). -/
def inMemory (a : Nat) : Bool := decide (a < Config.memSize)

/-- The byte at an address (`MemRead`, R6): what memory lists there, else what reset leaves there. -/
def readByte : Memory → Nat → Byte
  | [], a => resetByte a
  | (k, c) :: rest, a => if k = a then c else readByte rest a

/-- A list of cells with one put in its place. -/
def insertCell : Memory → Nat → Byte → Memory
  | [], a, b => [(a, b)]
  | (k, c) :: rest, a, b =>
    if a < k then (a, b) :: (k, c) :: rest
    else if a = k then (a, b) :: rest
    else (k, c) :: insertCell rest a b

/-- A list of cells without those at one address. -/
def eraseCell (m : Memory) (a : Nat) : Memory := m.filter (fun c => c.1 != a)

/-- Stores a byte (`MemWrite`, R6), keeping the canonical form: a byte equal to what reset leaves at its address is not
listed. Outside the 4096 bytes there is nothing to write; no instruction gets there, since the range check of R45 comes
first (assumption 21). -/
def writeByte (m : Memory) (a : Nat) (b : Byte) : Memory :=
  if inMemory a then
    if b = resetByte a then eraseCell m a else insertCell m a b
  else m

/-- The canonical form from an address on: rising addresses of memory, no byte equal to what reset leaves there. -/
def wfFrom : Nat → Memory → Bool
  | _, [] => true
  | lo, (a, b) :: rest => decide (lo ≤ a) && inMemory a && (b != resetByte a) && wfFrom (a + 1) rest

/-- The canonical form of memory: addresses below 4096, strictly rising, and no entry equal to what an unlisted address
reads as. -/
def Memory.wf (m : Memory) : Bool := wfFrom 0 m

/-- Bytes stored at ascending addresses (R47); those above 0xFFF are dropped (R245, for a long ROM). -/
def writeBytes : Memory → Nat → List Byte → Memory
  | m, _, [] => m
  | m, a, b :: rest => writeBytes (writeByte m a b) (a + 1) rest

/-- `count` bytes read at ascending addresses (R47). -/
def readBytes (m : Memory) (a count : Nat) : List Byte := (List.range count).map (fun k => readByte m (a + k))

/-! ### Conditions -/

/-- Raising a fatal condition (R201, R202, R203, R207): `FAULT` takes it and nothing else of the state changes; `PC` keeps
the value it has. Nothing is saved and control goes nowhere, and there is no return from it but `Reset` (R208). -/
def raise (c : Fatal) (s : State) : Result := .next (setFault s (some c))

/-- The lowest out-of-range address of `count` bytes from `base`, if one is (R45). The sum is exact. -/
def outOfRange (base : Word) (count : Nat) : Option Nat :=
  if 0 < count ∧ base.toNat + (count - 1) > 0xFFF then some (max base.toNat 0x1000) else none

/-- A data access of `count` bytes from `I`: all addresses are checked before any of it happens (R45, R203). -/
def withData (s : State) (count : Nat) (access : State → State) : Result :=
  match outOfRange s.i count with
  | some _ => raise .memoryRange s
  | none => .next (access s)

/-! ### The stack -/

/-- Pushes an address and transfers control; `StackOverflow` when all 16 entries are live (R103, R201). -/
def pushAndGo (s : State) (target : Word) : Result :=
  if h : s.sp.val < Config.stackDepth then
    .next (setPc (setSp (setStack s (s.stack.set s.sp.val s.pc h)) ⟨s.sp.val + 1, Nat.succ_lt_succ h⟩) target)
  else raise .stackOverflow s

/-- Pops an address into `PC`; `StackUnderflow` when no entry is live; the popped entry keeps its value (R14, R101,
R202). -/
def popAndGo (s : State) : Result :=
  if h : 0 < s.sp.val then
    .next (setPc (setSp s ⟨s.sp.val - 1, by omega⟩) (s.stack[s.sp.val - 1]'(by omega)))
  else raise .stackUnderflow s

/-! ### Display cells -/

/-- `Disp[px, py]` (R6, R19); outside the display there is no cell. -/
def cell (s : State) (px py : Nat) : Bool :=
  if h : py < Config.dispH then (s.disp[py]'h).getLsbD px else false

/-- `Disp[px, py] <- Disp[px, py] ^ 1` (R151). -/
def toggleCell (s : State) (px py : Nat) : State :=
  if h : py < Config.dispH then
    setDisp s (s.disp.set py (s.disp[py]'h ^^^ BitVec.twoPow 64 px) h)
  else s

/-! ### Program counter -/

/-- `skip`: `PC <- (PC + 2) mod 65536` (R6, R110). -/
def skipNext (s : State) : State := setPc s (s.pc + 2#16)

/-- A conditional skip: `PC` moves on by 2 when the condition holds, and stays where fetch left it when not (R110). -/
def skipIf (b : Bool) (s : State) : Result := .next (setPc s (if b then s.pc + 2#16 else s.pc))

/-! ### Fetch -/

/-- Whether a fetch is in range: `PC` and `PC + 1` are addresses of memory (R45). -/
def fetchInRange (s : State) : Bool := decide (s.pc.toNat ≤ 0xFFE)

/-- The instruction word at `PC`, big-endian (R42, R60). -/
def fetchWord (s : State) : Word := wordOfBytes (readByte s.mem s.pc.toNat) (readByte s.mem (s.pc.toNat + 1))

/-- The state in which an instruction executes: `PC` is past it and `WAITKEY` is 0 (R60). -/
def afterFetch (s : State) : State := setWaitkey (skipNext s) false

end Sys2Proof.Machine
end

