-- ==== Sys2Proof/Machine/Operands.lean ====
section
/-! DEFINITION. The operand forms: immediates and addresses (30_encoding.md R63), the register an address names (R104), glyph
addresses (R142), decimal digits (R143), the registers of a bulk transfer (R144, R145), key indices (R115, R161) and display
coordinates (R152). -/

namespace Sys2Proof.Machine

/-- `zext_16(nnn)` (R63). -/
def zextAddr (nnn : Addr12) : Word := nnn.setWidth 16

/-- `zext_16` of a byte: an addend of `I` or of a target (R104, R141). -/
def zextByte (b : Byte) : Word := b.setWidth 16

/-- The register `V[op[11:8]]` that the top nibble of `nnn` names (R104). -/
def offsetReg (nnn : Addr12) : Reg := nnn.extractLsb' 8 4

/-- `V[x] * 5`, the address of a glyph; the byte is not masked (R142). -/
def glyphAddr (b : Byte) : Word := BitVec.ofNat 16 (b.toNat * Config.glyphBytes)

/-- The decimal digits of a byte: hundreds, tens, ones (R143). -/
def digits (b : Byte) : List Byte :=
  [BitVec.ofNat 8 (b.toNat / 100), BitVec.ofNat 8 (b.toNat / 10 % 10), BitVec.ofNat 8 (b.toNat % 10)]

/-- Register number `k`. -/
def regAt (k : Nat) : Reg := BitVec.ofNat 4 k

/-- How many registers `V[0]` to `V[x]` are: `x` is a count here, the field itself (R144). -/
def bulkCount (x : Reg) : Nat := x.toNat + 1

/-- The values of `V[0]`, `V[1]`, ... (`count` of them) (R144). -/
def bulkValues (s : State) (count : Nat) : List Byte := (List.range count).map (fun k => getV s (regAt k))

/-- `V[k] <- Mem[I + k]` for the registers listed, in their order (R145). -/
def bulkLoad (s : State) (ks : List Nat) : State :=
  ks.foldl (fun t k => setV t (regAt k) (readByte t.mem (t.i.toNat + k))) s

/-- Whether the key with an index is set; an index above 15 is no key and reads as not set (R115, R116, decision D7,
assumption 10). -/
def keyIsSet (s : State) (idx : Byte) : Bool := decide (idx.toNat ≤ 15) && s.keys.getLsbD idx.toNat

/-- The least key index whose flag is set, if any is (R161, decision D8, assumption 11). -/
def lowestKey (s : State) : Option Nat := (List.range 16).find? (fun k => s.keys.getLsbD k)

/-- The display column of a sprite pixel: it wraps on its own (R152, decision D6, assumption 9). -/
def pixelCol (base : Byte) (xLine : Nat) : Nat := (base.toNat + xLine) % Config.dispW

/-- The display row of a sprite pixel: it wraps on its own (R152, decision D6, assumption 9). -/
def pixelRow (base : Byte) (yLine : Nat) : Nat := (base.toNat + yLine) % Config.dispH

/-- Bit `0x80 >> xLine` of a sprite byte: bit 7 is the leftmost pixel (R151). -/
def spriteBit (b : Byte) (xLine : Nat) : Bool := b &&& (0x80#8 >>> xLine) != 0#8

end Sys2Proof.Machine
end

