-- ==== Sys2Proof/Machine/Flags.lean ====
section
/-! DEFINITION. The flag values written to `V[15]` (10_state.md R11; 42_alu.md R127 to R131) and the one shape of a
flag-writing instruction (R120). The machine has no other flag (R11). -/

namespace Sys2Proof.Machine

/-- A flag as the byte 0 or 1. -/
def flagByte (b : Bool) : Byte := if b then 1#8 else 0#8

/-- The carry of an 8-bit sum: 1 if `a + b > 255` (R127). -/
def carryFlag (a b : Byte) : Byte := flagByte (decide (a.toNat + b.toNat > 255))

/-- 1 if `a > b`, strictly: equal operands give 0 (R128, R130). -/
def greaterFlag (a b : Byte) : Byte := flagByte (decide (a.toNat > b.toNat))

/-- `b & 1` (R129). -/
def lowBitFlag (b : Byte) : Byte := b &&& 1#8

/-- `(b >> 7) & 1` (R131). -/
def highBitFlag (b : Byte) : Byte := (b >>> 7) &&& 1#8

/-- The shape of the five flag-writing instructions (R120, R7, decision D5, assumption 8): the flag is written FIRST, from
`V[x]` and `V[y]` as they stand; the result SECOND, from `V[x]` and `V[y]` as they stand after the flag was written. -/
def flagThenResult (x y : Reg) (flag result : Byte → Byte → Byte) (s : State) : State :=
  setV (setV s flagReg (flag (getV s x) (getV s y))) x
    (result (getV (setV s flagReg (flag (getV s x) (getV s y))) x) (getV (setV s flagReg (flag (getV s x) (getV s y))) y))

end Sys2Proof.Machine
end

