-- ==== Sys2Proof/Machine/Alu.lean ====
section
/-! DEFINITION. Register loads, arithmetic, logic, shifts and the random byte (42_alu.md R120 to R132). -/

namespace Sys2Proof.Machine

/-- 6xkk LD Vx, kk (R121). -/
def execLdKk (x : Reg) (kk : Byte) (s : State) : Result := .next (setV s x kk)

/-- 7xkk ADD Vx, kk: modulo 256, no flag (R122). -/
def execAddKk (x : Reg) (kk : Byte) (s : State) : Result := .next (setV s x (getV s x + kk))

/-- 8xy0 LD Vx, Vy (R123). -/
def execLdVy (x y : Reg) (s : State) : Result := .next (setV s x (getV s y))

/-- 8xy1 OR Vx, Vy: no flag (R124). -/
def execOr (x y : Reg) (s : State) : Result := .next (setV s x (getV s x ||| getV s y))

/-- 8xy2 AND Vx, Vy: no flag (R125). -/
def execAnd (x y : Reg) (s : State) : Result := .next (setV s x (getV s x &&& getV s y))

/-- 8xy3 XOR Vx, Vy: no flag (R126). -/
def execXor (x y : Reg) (s : State) : Result := .next (setV s x (getV s x ^^^ getV s y))

/-- 8xy4 ADD Vx, Vy: the carry, then the sum modulo 256 (R127). -/
def execAddVy (x y : Reg) (s : State) : Result :=
  .next (flagThenResult x y carryFlag (fun a b => a + b) s)

/-- 8xy5 SUB Vx, Vy: 1 if `V[x] > V[y]`, then `V[x] - V[y]` modulo 256 (R128). -/
def execSub (x y : Reg) (s : State) : Result :=
  .next (flagThenResult x y greaterFlag (fun a b => a - b) s)

/-- 8xy6 SHR Vx, Vy: bit 0 of `V[y]`, then `V[x] >> 1` (R129, 90_conflicts.md C11). -/
def execShr (x y : Reg) (s : State) : Result :=
  .next (flagThenResult x y (fun _ b => lowBitFlag b) (fun a _ => a >>> 1) s)

/-- 8xy7 SUBN Vx, Vy: 1 if `V[y] > V[x]`, then `V[y] - V[x]` modulo 256 (R130). -/
def execSubn (x y : Reg) (s : State) : Result :=
  .next (flagThenResult x y (fun a b => greaterFlag b a) (fun a b => b - a) s)

/-- 8xyE SHL Vx, Vy: bit 7 of `V[y]`, then `V[x] << 1` modulo 256 (R131). -/
def execShl (x y : Reg) (s : State) : Result :=
  .next (flagThenResult x y (fun _ b => highBitFlag b) (fun a _ => a <<< 1) s)

/-- Cxkk RND Vx, kk: a fresh random byte, sampled once, masked with `kk` (R132, R29; assumption 1). -/
def execRnd (x : Reg) (kk : Byte) (s : State) : Result :=
  .next (setRndCount (setV s x (Config.rnd s.rndCount &&& kk)) (s.rndCount + 1))

end Sys2Proof.Machine
end

