-- ==== Sys2Proof/Machine/Display.lean ====
section
/-! DEFINITION. The display instructions (44_display.md R150 to R152). The statements of DRW run in the order written, so
`V[x]` and `V[y]` are read at each pixel, after `V[15]` was cleared (R151, R7, decision D5, assumption 8). -/

namespace Sys2Proof.Machine

/-- Every cell 0 (R150). -/
def clearDisp (s : State) : State := setDisp s (Vector.replicate 32 0#64)

/-- 00E0 CLS (R150). -/
def execCls (s : State) : Result := .next (setRedraw (clearDisp s) true)

/-- One set sprite bit: the coordinates are read, a set cell is a collision, and the cell is toggled (R151). -/
def drawPixel (x y : Reg) (yLine xLine : Nat) (s : State) : State :=
  toggleCell
    (if cell s (pixelCol (getV s x) xLine) (pixelRow (getV s y) yLine) then setV s flagReg 1#8 else s)
    (pixelCol (getV s x) xLine) (pixelRow (getV s y) yLine)

/-- The set bits of a sprite as their offsets (row, column), in the order DRW takes them: rows from the top, in a row from
bit 7 (R151). -/
def spritePixels (rows : List Byte) : List (Nat × Nat) :=
  rows.zipIdx.flatMap (fun r => ((List.range 8).filter (fun xLine => spriteBit r.1 xLine)).map (fun xLine => (r.2, xLine)))

/-- The set bits drawn one after another (R151). -/
def drawPixels (x y : Reg) (ps : List (Nat × Nat)) (s : State) : State :=
  ps.foldl (fun t p => drawPixel x y p.1 p.2 t) s

/-- Dxyn DRW Vx, Vy, n (R151): `V[15]` is cleared, the sprite's set bits are drawn, `REDRAW` is set whatever changed. -/
def execDrw (x y : Reg) (n : Nibble) (s : State) : Result :=
  withData s n.toNat (fun t =>
    setRedraw (drawPixels x y (spritePixels (readBytes t.mem t.i.toNat n.toNat)) (setV t flagReg 0#8)) true)

end Sys2Proof.Machine
end

