-- ==== Sys2Proof/Machine/Flow.lean ====
section
/-! DEFINITION. Control transfer (40_flow.md R100 to R104). `PC` already holds the address of the instruction plus 2; every
target is absolute and unchecked. -/

namespace Sys2Proof.Machine

/-- 00EE RET (R101). -/
def execRet (s : State) : Result := popAndGo s

/-- 1nnn JP nnn (R102). -/
def execJp (nnn : Addr12) (s : State) : Result := .next (setPc s (zextAddr nnn))

/-- 2nnn CALL nnn: pushes `PC`, the address after the CALL (R103). -/
def execCall (nnn : Addr12) (s : State) : Result := pushAndGo s (zextAddr nnn)

/-- Bnnn JP V0, nnn: `nnn + V[op[11:8]]`, not `V[0]`; not reduced to 12 bits (R104, 90_conflicts.md C6). -/
def execJpV0 (nnn : Addr12) (s : State) : Result :=
  .next (setPc s (zextAddr nnn + zextByte (getV s (offsetReg nnn))))

end Sys2Proof.Machine
end

