-- ==== Sys2Proof/Machine/Index.lean ====
section
/-! DEFINITION. The index register and memory transfer (43_index_memory.md R140 to R145). `I` is unchanged by every access. -/

namespace Sys2Proof.Machine

/-- Annn LD I, nnn (R140). -/
def execLdI (nnn : Addr12) (s : State) : Result := .next (setI s (zextAddr nnn))

/-- Fx1E ADD I, Vx: modulo 65536, no flag, no check (R141). -/
def execAddI (x : Reg) (s : State) : Result := .next (setI s (s.i + zextByte (getV s x)))

/-- Fx29 LD F, Vx: `V[x] * 5`, not masked (R142). -/
def execLdF (x : Reg) (s : State) : Result := .next (setI s (glyphAddr (getV s x)))

/-- Fx33 LD B, Vx: the decimal digits at `I`, `I + 1`, `I + 2` (R143). -/
def execLdB (x : Reg) (s : State) : Result :=
  withData s 3 (fun t => setMem t (writeBytes t.mem t.i.toNat (digits (getV t x))))

/-- Fx55 LD [I], Vx: `V[0]` to `V[x]` stored from `I` (R144). -/
def execLdMemVx (x : Reg) (s : State) : Result :=
  withData s (bulkCount x) (fun t => setMem t (writeBytes t.mem t.i.toNat (bulkValues t (bulkCount x))))

/-- Fx65 LD Vx, [I]: `V[0]` to `V[x]` loaded from `I` (R145). -/
def execLdVxMem (x : Reg) (s : State) : Result :=
  withData s (bulkCount x) (fun t => bulkLoad t (List.range (bulkCount x)))

end Sys2Proof.Machine
end

