-- ==== Sys2Proof/Machine/Skip.lean ====
section
/-! DEFINITION. Conditional skips (41_skip.md R110 to R116): a taken skip adds 2 to `PC` without looking at what it skips. -/

namespace Sys2Proof.Machine

/-- 3xkk SE Vx, kk (R111). -/
def execSeKk (x : Reg) (kk : Byte) (s : State) : Result := skipIf (getV s x == kk) s

/-- 4xkk SNE Vx, kk (R112). -/
def execSneKk (x : Reg) (kk : Byte) (s : State) : Result := skipIf (getV s x != kk) s

/-- 5xy0 SE Vx, Vy (R113). -/
def execSeVy (x y : Reg) (s : State) : Result := skipIf (getV s x == getV s y) s

/-- 9xy0 SNE Vx, Vy (R114). -/
def execSneVy (x y : Reg) (s : State) : Result := skipIf (getV s x != getV s y) s

/-- Ex9E SKP Vx (R115). -/
def execSkp (x : Reg) (s : State) : Result := skipIf (keyIsSet s (getV s x)) s

/-- ExA1 SKNP Vx, the exact complement of SKP (R116). -/
def execSknp (x : Reg) (s : State) : Result := skipIf (!keyIsSet s (getV s x)) s

end Sys2Proof.Machine
end

