-- ==== Sys2Proof/Machine/TimerKey.lean ====
section
/-! DEFINITION. Timers and the key wait (45_timer_key.md R160 to R163). -/

namespace Sys2Proof.Machine

/-- Fx07 LD Vx, DT (R160). -/
def execLdVxDt (x : Reg) (s : State) : Result := .next (setV s x s.dt)

/-- Fx0A LD Vx, K (R161): with a key set, its index; with none, back to the address of this instruction and `WAITKEY` is
set, so the next step executes it again (90_conflicts.md C3, C7). -/
def execLdVxK (x : Reg) (s : State) : Result :=
  match lowestKey s with
  | some k => .next (setV s x (BitVec.ofNat 8 k))
  | none => .next (setWaitkey (setPc s (s.pc - 2#16)) true)

/-- Fx15 LD DT, Vx (R162). -/
def execLdDtVx (x : Reg) (s : State) : Result := .next (setDt s (getV s x))

/-- Fx18 LD ST, Vx (R163). -/
def execLdStVx (x : Reg) (s : State) : Result := .next (setSt s (getV s x))

end Sys2Proof.Machine
end

