-- ==== Sys2Proof/Machine/Events.lean ====
section
/-! DEFINITION. The host events but `Step` (60_exceptions.md R212, R220 to R222; 70_reset_and_hazards.md R240, R245). Each is
atomic and acts whatever `FAULT` and `WAITKEY` are (R204, R212). -/

namespace Sys2Proof.Machine

/-- A timer counted down, clamped at 0 (R212). -/
def countDown (b : Byte) : Byte := if b.toNat > 0 then b - 1#8 else b

/-- `TimerTick()` (R212). -/
def timerTick (s : State) : State := setSt (setDt s (countDown s.dt)) (countDown s.st)

/-- `KeyDown(k)` (R221). -/
def keyDown (k : KeyIdx) (s : State) : State := setKeys s (s.keys ||| BitVec.twoPow 16 k.toNat)

/-- `KeyUp(k)` (R221). -/
def keyUp (k : KeyIdx) (s : State) : State := setKeys s (s.keys &&& ~~~(BitVec.twoPow 16 k.toNat))

/-- `ClearRedraw()` (R222). -/
def clearRedraw (s : State) : State := setRedraw s false

/-- `LoadRom(bytes)` (R245): memory from 0x200, the bytes that would fall above 0xFFF dropped (decision D14, assumption 14). -/
def loadRom (bytes : List Byte) (s : State) : State := setMem s (writeBytes s.mem Config.loadBase bytes)

/-- `LoadOverrun(len)`, what the load port reports for a ROM longer than 3584 bytes; no condition of the core (R245). -/
def loadOverrun (bytes : List Byte) : Option Nat :=
  if bytes.length > Config.memSize - Config.loadBase then some bytes.length else none

/-- `Reset()` (R240): every piece of state to its reset value but `Keys`, which stay (decision D12, assumption 7). The
model's own two fields stay too: a reset neither rewinds the random source nor cancels the events to come. -/
def hostReset (s : State) : State :=
  setSchedule (setRndCount (setKeys State.reset s.keys) s.rndCount) s.schedule

end Sys2Proof.Machine
end

