-- ==== Sys2Proof/Machine/Cycle.lean ====
section
/-! DEFINITION. The step cycle (30_encoding.md R60), what a step reports (60_exceptions.md R200 to R206), and the host events
as one operation (R220). -/

namespace Sys2Proof.Machine

/-- `Step()` (R60): halted; fetch out of range; fetch, advance, decode; unmatched, a no-op (R70); else execute. The order
is that of R206. -/
def coreStep (s : State) : Result :=
  if s.fault.isSome then .next s
  else if fetchInRange s then
    match decodeWord (fetchWord s) with
    | some i => exec i (afterFetch s)
    | none => .next (afterFetch s)
  else raise .memoryRange s

/-- The kind of a memory access that was out of range (R200). -/
inductive AccessKind where
  | fetch
  | data
  deriving DecidableEq, Repr

/-- What a step returns (R60, R200, R205): outputs of the step, kept nowhere (decision D11, assumption 4). -/
inductive StepReport where
  /-- `Ok`. -/
  | ok
  /-- `Unimplemented(op)` with the unmatched word (R70, R205). -/
  | unimplemented (op : Word)
  /-- `Fatal(StackOverflow)` or `Fatal(StackUnderflow)` (R201, R202). -/
  | fatalStack (c : Fatal)
  /-- `Fatal(MemoryRange(kind, address))` with the lowest out-of-range address (R203, R45). -/
  | fatalRange (kind : AccessKind) (address : Nat)
  /-- `Halted(FAULT)` (R204). -/
  | halted (c : Fatal)
  deriving DecidableEq, Repr

/-- `FAULT` in the state an outcome leaves; an outcome that leaves no state leaves no condition. -/
def faultAfter : Result → Option Fatal
  | .next t => t.fault
  | .fault _ => none
  | .refused _ => none

/-- What executing an instruction reports: the condition it left in `FAULT`, with the lowest out-of-range address of its
data accesses, which start at `I` (R45, R200). -/
def execReport (i : Instr) (s : State) : StepReport :=
  match faultAfter (exec i s) with
  | none => .ok
  | some .memoryRange => .fatalRange .data (max s.i.toNat 0x1000)
  | some c => .fatalStack c

/-- What `Step()` returns in a state (R60, R206). -/
def stepReport (s : State) : StepReport :=
  match s.fault with
  | some c => .halted c
  | none =>
    if fetchInRange s then
      match decodeWord (fetchWord s) with
      | some i => execReport i (afterFetch s)
      | none => .unimplemented (fetchWord s)
    else .fatalRange .fetch s.pc.toNat

/-- One host event (R220). -/
def applyEvent (e : HostEvent) (s : State) : Result :=
  match e with
  | .step => coreStep s
  | .reset => .next (hostReset s)
  | .loadRom bytes => .next (loadRom bytes s)
  | .timerTick => .next (timerTick s)
  | .keyDown k => .next (keyDown k s)
  | .keyUp k => .next (keyUp k s)
  | .clearRedraw => .next (clearRedraw s)

/-- The next host event: the first of the schedule, `Step` when the schedule is empty (assumption 2). -/
def nextEvent (s : State) : HostEvent := s.schedule.head?.getD .step

/-- The state with the next event taken off the schedule (assumption 2). -/
def takeEvent (s : State) : State := setSchedule s s.schedule.tail

/-- The events of the schedule one at a time: the one transition of the model (R8, R49: each event is atomic). -/
def advance (s : State) : Result := applyEvent (nextEvent s) (takeEvent s)

/-- A state in which the very next transition fetches and runs the word `op`: it stands at `PC` in the order of R42; `PC`
itself only moves, to 0x200, where no fetch is possible from it; the core is not halted and no other event comes first
(assumption 16). -/
def placeWord (s : State) (op : Word) : State :=
  setMem (setFault (setSchedule (setPc s (if fetchInRange s then s.pc else BitVec.ofNat 16 Config.loadBase)) []) none)
    (writeBytes s.mem (if fetchInRange s then s.pc else BitVec.ofNat 16 Config.loadBase).toNat [highByte op, lowByte op])

end Sys2Proof.Machine
end

