-- ==== Sys2Proof/Machine/Step.lean ====
section
/-! DEFINITION. The step of the model: one host event, `Step` unless the schedule names another (30_encoding.md R60,
60_exceptions.md R220; assumption 2), and the state that runs a given word next (assumption 16). -/

namespace Sys2Proof.Machine

/-- One transition of the machine. -/
def step : State → Host.Outcome State Fault Refusal := advance

/-- `s` with the instruction whose bits are `w` stored where `step` fetches next. -/
def State.withFetchWord (s : State) (nbits w : Nat) : State := placeWord s (BitVec.ofNat 16 (w % 2 ^ nbits))

end Sys2Proof.Machine
end

