-- ==== Sys2Proof/Machine/Ports.lean ====
section
/-! DEFINITION. What the host can see of the core without changing it (10_state.md R27; 60_exceptions.md R222 to R225): the
output ports, each a function of the state; those that carry a step's result, of the state that step starts from. -/

namespace Sys2Proof.Machine

/-- `FAULT` as the status port codes it (R200, R225). -/
def faultCode (s : State) : BitVec 2 :=
  match s.fault with
  | none => 0#2
  | some .stackOverflow => 1#2
  | some .stackUnderflow => 2#2
  | some .memoryRange => 3#2

/-- `step_result` for the step taken from a state: 0 Ok, 1 Unimplemented, 2 Fatal, 3 Halted (R225). -/
def stepResult (s : State) : BitVec 2 :=
  match stepReport s with
  | .ok => 0#2
  | .unimplemented _ => 1#2
  | .fatalStack _ => 2#2
  | .fatalRange _ _ => 2#2
  | .halted _ => 3#2

/-- `diag_opcode`: the unmatched word, when there is one (R205, R225). -/
def diagOpcode (s : State) : Option Word :=
  match stepReport s with
  | .unimplemented op => some op
  | _ => none

/-- `fault_addr`: the address reported with `MemoryRange`, when it is raised (R225, 17 bits). -/
def faultAddr (s : State) : Option (BitVec 17) :=
  match stepReport s with
  | .fatalRange _ a => some (BitVec.ofNat 17 a)
  | _ => none

/-- `tone`: 1 exactly when `ST > 0` (R223). -/
def tone (s : State) : Bool := decide (s.st.toNat > 0)

/-- `disp_bit` at `disp_x`, `disp_y` (R222, R225). -/
def dispBit (s : State) (x : BitVec 6) (y : BitVec 5) : Bool := cell s x.toNat y.toNat

/-- `redraw` (R222). -/
def redrawPort (s : State) : Bool := s.redraw

/-- `waitkey` (R23, R225). -/
def waitkeyPort (s : State) : Bool := s.waitkey

/-- A flag as the debug port shows it: 0 or 1 (R225). -/
def flagWord (b : Bool) : Word := (BitVec.ofBool b).setWidth 16

/-- What the debug port can select: every piece of state (R27, R224). The row of R225 lists those up to `mem`; the others are the
pieces that R225 also gives ports of their own, and the key flags. -/
inductive DebugSel where
  | v (r : Reg)
  | i
  | pc
  | sp
  | stack (k : Fin 16)
  | dt
  | st
  | mem (a : Addr12)
  | disp (x : BitVec 6) (y : BitVec 5)
  | keys
  | redraw
  | waitkey
  | fault
  deriving DecidableEq, Repr

/-- The debug port, read-only, 16 bits (R27, R224, R225). -/
def debugRead (s : State) : DebugSel → Word
  | .v r => (getV s r).setWidth 16
  | .i => s.i
  | .pc => s.pc
  | .sp => BitVec.ofNat 16 s.sp.val
  | .stack k => s.stack[k]
  | .dt => s.dt.setWidth 16
  | .st => s.st.setWidth 16
  | .mem a => (readByte s.mem a.toNat).setWidth 16
  | .disp x y => flagWord (dispBit s x y)
  | .keys => s.keys
  | .redraw => flagWord s.redraw
  | .waitkey => flagWord s.waitkey
  | .fault => (faultCode s).setWidth 16

end Sys2Proof.Machine
end

