-- ==== Sys2Proof/Safety.lean ====
section
/-! DEFINITION. What counts as a safe state and a legal one, and what a step or an instruction may leave unchanged, in the
terms the claims use. -/

namespace Sys2Proof.Safety

open Sys2Proof.Machine

/-! ### States -/

/-- A session that has met no fatal condition: what a claim about a program takes at its end (60_exceptions.md R204). -/
def Running (s : State) : Prop := s.fault = none

/-- A session that a fatal condition has ended (R204, R247). -/
def Halted (s : State) : Prop := s.fault ≠ none

/-- The end of a run, which R247 leaves to the model and gives as an example: `PC` holds the address of a JP to that same
address, and `FAULT` is None (assumption 22). The fetch is in range, so the 12 bits of the JP are all of `PC`. It does not say
that the state stays: the timers still count, the keys still move, and LoadRom can replace the JP. -/
def RunEnded (s : State) : Prop :=
  Running s ∧ s.pc.toNat ≤ 0xFFE ∧ decodeWord (fetchWord s) = some (.jp (s.pc.setWidth 12))

/-- The bound of R13 on the program counter: no instruction loads more than 0xFFF + 0xFF. -/
def PcBounded (s : State) : Prop := s.pc.toNat ≤ 0x10FE

/-- Every stack entry is the address after a CALL that could be fetched, or 0 (R14, R103). -/
def StackBounded (s : State) : Prop := ∀ k : Fin 16, s.stack[k].toNat ≤ 0x1000

/-- The legal states: memory in canonical form, `PC` and the stack within the bounds of R13 and R103. -/
def Legal (s : State) : Prop := Memory.wf s.mem = true ∧ PcBounded s ∧ StackBounded s

/-! ### Frames: `s` before, `t` after. Each says that nothing else of the state differs -/

/-- Every byte of memory reads as before. -/
def SameMemory (s t : State) : Prop := ∀ a, readByte t.mem a = readByte s.mem a

/-- Every byte of memory reads as before, but the `count` bytes from address `a`. -/
def SameMemoryBut (a count : Nat) (s t : State) : Prop :=
  ∀ c, ¬ (a ≤ c ∧ c < a + count) → readByte t.mem c = readByte s.mem c

/-- Every general register reads as before, but those listed. -/
def SameRegsBut (xs : List Reg) (s t : State) : Prop := ∀ r, r ∉ xs → getV t r = getV s r

/-- Only `PC` may differ. -/
def OnlyPc (s t : State) : Prop :=
  SameRegsBut [] s t ∧ SameMemory s t ∧ t = { s with pc := t.pc }

/-- Only the registers listed may differ. -/
def OnlyRegs (xs : List Reg) (s t : State) : Prop :=
  SameRegsBut xs s t ∧ SameMemory s t ∧ t = { s with v := t.v }

/-- Only `I` may differ. -/
def OnlyI (s t : State) : Prop :=
  SameRegsBut [] s t ∧ SameMemory s t ∧ t = { s with i := t.i }

/-- Only the `count` bytes of memory from address `a` may differ. -/
def OnlyMemory (a count : Nat) (s t : State) : Prop :=
  SameRegsBut [] s t ∧ SameMemoryBut a count s t ∧ t = { s with mem := t.mem }

/-- Only `PC`, `SP` and the stack entry `k` may differ. -/
def OnlyStack (k : Nat) (s t : State) : Prop :=
  SameRegsBut [] s t ∧ SameMemory s t ∧ (∀ j : Fin 16, j.val ≠ k → t.stack[j] = s.stack[j]) ∧
    t = { s with pc := t.pc, sp := t.sp, stack := t.stack }

/-- Only the registers listed, the display and `REDRAW` may differ. -/
def OnlyDisplay (xs : List Reg) (s t : State) : Prop :=
  SameRegsBut xs s t ∧ SameMemory s t ∧ t = { s with v := t.v, disp := t.disp, redraw := t.redraw }

/-! ### What no program can read -/

/-- The state without what no instruction reads: `ST`, `REDRAW` and `WAITKEY` (10_state.md R17, R21, R23). -/
def visible (s : State) : State := { s with st := 0#8, redraw := false, waitkey := false }

end Sys2Proof.Safety
end

