-- ==== Sys2Proof/Certificates/Slice0/Obligations.lean ====
section
/-! DEFINITION. The statements for the provers. Each docstring cites the rule of spec/ it formalises. A statement that rests on
a decision the spec marks as its own (D<n> of 92_eei_decisions.md) or on an entry of the model's log says so. -/

open Sys2Proof Sys2Proof.Machine Sys2Proof.Safety

namespace Sys2Proof.Claims

/-- The number a register holds. -/
def vNat (s : State) (r : Reg) : Nat := (getV s r).toNat

/-- A flag as a number. -/
def bit (p : Prop) [Decidable p] : Nat := if p then 1 else 0

/-- Byte `r` of the glyph of digit `d`, from the table of R55. -/
def glyphByte (d r : Nat) : Byte := (glyphs.getD d []).getD r 0#8

/-- The set bits of the sprite of `n` bytes at `I` as (row, column), in the order of R151: rows from the top, in a row
column 0 (bit 7) first. -/
def setBits (s : State) (n : Nat) : List (Nat × Nat) :=
  (List.range n).flatMap (fun r =>
    ((List.range 8).filter (fun c => (readByte s.mem (s.i.toNat + r)).getLsbD (7 - c))).map (fun c => (r, c)))

/-- Whether the sprite of `n` bytes at `I`, drawn with its corner at the values of `V[x]` and `V[y]`, has a set bit on the
cell (px, py): R151 with the wrapping of R152. -/
def covers (s : State) (x y : Reg) (n : Nat) (px py : Nat) : Bool :=
  (List.range n).any (fun r => (List.range 8).any (fun c =>
    (readByte s.mem (s.i.toNat + r)).getLsbD (7 - c) &&
      decide (px = (vNat s x + c) % 64) && decide (py = (vNat s y + r) % 32)))

/-- Where the pixel (row, column) of a sprite lands when `V[15]` holds `f`: a coordinate that names register 15 reads `f`,
any other reads its register (R151, decision D5; R152, decision D6). -/
def landing (s : State) (x y : Reg) (f : Nat) (p : Nat × Nat) : Nat × Nat :=
  (((if x = 15#4 then f else vNat s x) + p.2) % 64, ((if y = 15#4 then f else vNat s y) + p.1) % 32)

/-- How many set bits come before the first collision; all of them when there is none. While there was no collision `V[15]`
is 0 and no cell is met twice, so the cells met are those of the display before the instruction. -/
def beforeCollision (s : State) (x y : Reg) (n : Nat) : Nat :=
  (setBits s n).findIdx (fun p => cell s (landing s x y 0 p).1 (landing s x y 0 p).2)

/-- How often DRW toggles the cell (px, py): the pixels up to and including the first collision land with `V[15] = 0`, those
after it with `V[15] = 1` (R151, "for every pixel up to and including the first collision, and 1 for every pixel after it"). -/
def toggles (s : State) (x y : Reg) (n : Nat) (px py : Nat) : Nat :=
  ((setBits s n).take (beforeCollision s x y n + 1)).countP (fun p => landing s x y 0 p == (px, py)) +
    ((setBits s n).drop (beforeCollision s x y n + 1)).countP (fun p => landing s x y 1 p == (px, py))

end Sys2Proof.Claims

open Sys2Proof.Claims

/-! ### Encoding -/

/-- A few words of the opcode table decode to what they stand for (30_encoding.md R65), and neighbours that match no row do
not (95_test_vectors.md section 2.8). -/
def Obligations.SpecWordsDecode : Prop :=
  decode [0x00#8, 0xE0#8] = .ok (.cls, []) ∧ decode [0x1A#8, 0xBC#8] = .ok (.jp 0xABC#12, []) ∧
  decode [0x31#8, 0x2A#8] = .ok (.seKk 0x1#4 0x2A#8, []) ∧ decode [0x81#8, 0x2E#8] = .ok (.shlVy 0x1#4 0x2#4, []) ∧
  decode [0xDA#8, 0xB7#8] = .ok (.drw 0xA#4 0xB#4 0x7#4, []) ∧ decode [0xF3#8, 0x0A#8] = .ok (.ldVxK 0x3#4, []) ∧
  decode [0xF2#8, 0x65#8] = .ok (.ldVxMem 0x2#4, []) ∧ decode [0x51#8, 0x21#8] = .error (.unmatched 0x5121#16) ∧
  decode [0xE1#8, 0x9F#8] = .error (.unmatched 0xE19F#16)

/-- Decoding an instruction's two bytes gives it back, with every operand at every value and the bytes after it untouched
(R61, R62, R65). -/
def Obligations.DecodeOfEncode : Prop :=
  ∀ (i : Instr) (rest : List Byte), decode (encodeBytes i ++ rest) = .ok (i, rest)

/-- A word that decodes to an instruction is the word of that instruction: no two words mean the same, no bit is ignored
(R61, R65). -/
def Obligations.EncodeOfDecode : Prop :=
  ∀ (op : Word) (i : Instr), decodeWord op = some i → encode i = op

/-- A word decodes to an instruction exactly when it matches that instruction's mask and match, and then it matches no other
row: the rows are pairwise disjoint (R65, R66). -/
def Obligations.OneRowPerWord : Prop :=
  ∀ (op : Word) (i : Instr), decodeWord op = some i →
    matchesRow op i = true ∧ ∀ j : Instr, matchesRow op j = true → rowOf j = rowOf i

/-- The words no row matches are exactly the unmatched words R71 lists by family (R70, R71; families 5 and 9 by decision
D17). -/
def Obligations.UnmatchedWordsAreListed : Prop :=
  ∀ op : Word, (decodeWord op = none ↔ isInstructionWord op = false) ∧
    (decodeWord op = none ↔ ∀ i : Instr, matchesRow op i = false)

/-! ### The step -/

/-- When the next event is `Step`, the core is not halted, the fetch is in range and the two bytes at `PC` decode to an
instruction, the step is the execution of that instruction with `PC` past it and `WAITKEY` 0 (R60). -/
def Obligations.StepRunsDecodedInstruction : Prop :=
  ∀ (s : State) (i : Instr), nextEvent s = .step → s.fault = none → s.pc.toNat ≤ 0xFFE →
    decode (readBytes s.mem s.pc.toNat 2) = .ok (i, []) →
    step s = exec i { s with schedule := s.schedule.tail, pc := s.pc + 2#16, waitkey := false }

/-- A step on an unmatched word does nothing beyond fetch: `PC` advances by 2 and `WAITKEY` is 0; it reports the word and is
not fatal (R70, R205). -/
def Obligations.UnmatchedWordIsNoOp : Prop :=
  ∀ (s : State) (hi lo : Byte), nextEvent s = .step → s.fault = none → s.pc.toNat ≤ 0xFFE →
    readByte s.mem s.pc.toNat = hi → readByte s.mem (s.pc.toNat + 1) = lo →
    isInstructionWord (hi ++ lo) = false →
    (∃ t, step s = .next t ∧ t.pc.toNat = s.pc.toNat + 2 ∧ t.waitkey = false ∧ t.fault = none ∧ SameMemory s t ∧
      t = { s with schedule := s.schedule.tail, pc := t.pc, waitkey := false }) ∧
    stepReport (takeEvent s) = .unimplemented (hi ++ lo) ∧ diagOpcode (takeEvent s) = some (hi ++ lo)

/-- A fetch with `PC` above 0xFFE raises `MemoryRange` before `PC` is advanced and before anything else changes; the step
reports the address (R45, decision D3; R203, decision D10). -/
def Obligations.FetchOutOfRangeIsFatal : Prop :=
  ∀ s : State, nextEvent s = .step → s.fault = none → s.pc.toNat > 0xFFE →
    step s = .next { s with schedule := s.schedule.tail, fault := some .memoryRange } ∧
    stepReport (takeEvent s) = .fatalRange .fetch s.pc.toNat

/-- A halted core changes nothing, whatever `PC` holds, and reports why it is halted (R204, decision D10; R206). -/
def Obligations.HaltedStepChangesNothing : Prop :=
  ∀ (s : State) (c : Fatal), nextEvent s = .step → s.fault = some c →
    step s = .next { s with schedule := s.schedule.tail } ∧ stepReport (takeEvent s) = .halted c

/-- Every transition from every state answers a next state. That no transition ends in a fault or a refusal is the model's choice
of outcomes, assumption 3 (DESIGN CHOICE): a fatal condition is a next state with `FAULT` set, and a step of a halted core is a next
state (decision D10). What the spec says of the steps themselves is R60, R70 and R204. -/
def Obligations.EveryStepAnswers : Prop :=
  ∀ s : State, ∃ t, step s = .next t

/-- Conditions are precise: a step that sets `FAULT` leaves the state before the instruction, with `PC` advanced by 2 and
`WAITKEY` cleared when the fetch succeeded, and nothing at all changed when it did not (R207, R203; decision D10). -/
def Obligations.ConditionsArePrecise : Prop :=
  ∀ (s t : State) (c : Fatal), s.fault = none → step s = .next t → t.fault = some c →
    nextEvent s = .step ∧
    t = (if s.pc.toNat ≤ 0xFFE then
        { s with schedule := s.schedule.tail, fault := some c, pc := s.pc + 2#16, waitkey := false }
      else { s with schedule := s.schedule.tail, fault := some c })

/-- A step's report agrees with the state it leaves: it reports a fatal condition exactly when `FAULT` becomes that condition,
and with `MemoryRange` the address: that of a fetch, for a data access the lowest out of range (R45, R200, R203, R205; decisions D3,
D10, D11). -/
def Obligations.ReportAgreesWithFault : Prop :=
  ∀ s t : State, nextEvent s = .step → s.fault = none → step s = .next t →
    (t.fault = none ↔ stepReport (takeEvent s) = .ok ∨ ∃ op, stepReport (takeEvent s) = .unimplemented op) ∧
    (∀ c, stepReport (takeEvent s) = .fatalStack c → t.fault = some c ∧ c ≠ .memoryRange) ∧
    (∀ k a, stepReport (takeEvent s) = .fatalRange k a → t.fault = some .memoryRange ∧
      a = match k with
        | .fetch => s.pc.toNat
        | .data => max s.i.toNat 0x1000)

/-- `FAULT` is sticky: only the event `Reset` clears it; no other event changes it once it is set (R204, R22; decision
D10). -/
def Obligations.OnlyResetClearsFault : Prop :=
  ∀ (s t : State) (c : Fatal), s.fault = some c → step s = .next t → t.fault ≠ some c →
    nextEvent s = .reset ∧ t.fault = none

/-! ### Invariants -/

/-- The state after power-on is legal. -/
def Obligations.PowerOnIsLegal : Prop := Legal State.reset

/-- Every transition keeps a legal state legal: memory stays canonical, `PC` stays within 0x10FE, so that its arithmetic
modulo 65536 never acts, and the stack holds addresses up to 0x1000 (R13, R104, R103; the bounds on `PC` and the stack are
derived by the spec and by the model). -/
def Obligations.StepKeepsLegal : Prop :=
  ∀ s t : State, Legal s → step s = .next t → Legal t

/-- Who writes what: a piece of state that an instruction changes is changed by one of the instructions the access matrix
lists for it (10_state.md R26), the general registers and `PC` included (`PC` beyond the advance that fetch makes, which lies before
`exec`); a change of `PC` by a skip is 2 more, by a key wait 2 less with `WAITKEY` 1. No instruction writes the keys or turns a
`FAULT` that is set into None (that no step replaces it either is `OnlyResetClearsFault`). The clauses of `rndCount` and `schedule`
are about fields of the model's own, assumptions 1 and 2 (DESIGN CHOICE), and rest on no rule of the spec. -/
def Obligations.AccessMatrixWrites : Prop :=
  ∀ (i : Instr) (s t : State), exec i s = .next t →
    (t.i ≠ s.i → (∃ nnn, i = .ldI nnn) ∨ (∃ x, i = .addI x) ∨ ∃ x, i = .ldF x) ∧
    (t.sp ≠ s.sp → i = .ret ∨ ∃ nnn, i = .call nnn) ∧
    (t.stack ≠ s.stack → ∃ nnn, i = .call nnn) ∧
    (t.dt ≠ s.dt → ∃ x, i = .ldDtVx x) ∧
    (t.st ≠ s.st → ∃ x, i = .ldStVx x) ∧
    (t.mem ≠ s.mem → (∃ x, i = .ldB x) ∨ ∃ x, i = .ldMemVx x) ∧
    (t.disp ≠ s.disp → i = .cls ∨ ∃ x y n, i = .drw x y n) ∧
    (t.redraw ≠ s.redraw → i = .cls ∨ ∃ x y n, i = .drw x y n) ∧
    (t.waitkey ≠ s.waitkey → ∃ x, i = .ldVxK x) ∧
    (t.fault ≠ s.fault → i = .ret ∨ (∃ nnn, i = .call nnn) ∨ (∃ x y n, i = .drw x y n) ∨ (∃ x, i = .ldB x) ∨
      (∃ x, i = .ldMemVx x) ∨ ∃ x, i = .ldVxMem x) ∧
    (t.rndCount ≠ s.rndCount → ∃ x kk, i = .rnd x kk) ∧
    t.keys = s.keys ∧ t.schedule = s.schedule ∧
    (s.fault ≠ none → t.fault ≠ none) ∧
    (t.pc ≠ s.pc → i = .ret ∨ (∃ nnn, i = .jp nnn ∨ i = .call nnn ∨ i = .jpV0 nnn) ∨
      (((∃ x kk, i = .seKk x kk ∨ i = .sneKk x kk) ∨ (∃ x y, i = .seVy x y ∨ i = .sneVy x y) ∨
        ∃ x, i = .skp x ∨ i = .sknp x) ∧ t.pc = s.pc + 2#16) ∨
      ((∃ x, i = .ldVxK x) ∧ t.pc = s.pc - 2#16 ∧ t.waitkey = true)) ∧
    (∀ r : Reg, getV t r ≠ getV s r →
      (∃ kk, i = .ldKk r kk ∨ i = .addKk r kk ∨ i = .rnd r kk) ∨
      (∃ y, i = .ldVy r y ∨ i = .orVy r y ∨ i = .andVy r y ∨ i = .xorVy r y ∨ i = .addVy r y ∨ i = .subVy r y ∨
        i = .shrVy r y ∨ i = .subnVy r y ∨ i = .shlVy r y) ∨
      i = .ldVxDt r ∨ i = .ldVxK r ∨ (∃ x, i = .ldVxMem x ∧ r.toNat ≤ x.toNat) ∨
      (r = 15#4 ∧ ((∃ x y, i = .addVy x y ∨ i = .subVy x y ∨ i = .shrVy x y ∨ i = .subnVy x y ∨ i = .shlVy x y) ∨
        ∃ x y n, i = .drw x y n)))

/-- The flag register changes only by the six instructions that write it as a flag and by those that name it as their
destination (10_state.md R11). -/
def Obligations.FlagRegisterWriters : Prop :=
  ∀ (i : Instr) (s t : State), exec i s = .next t → getV t 15#4 ≠ getV s 15#4 →
    (∃ x y, i = .addVy x y ∨ i = .subVy x y ∨ i = .shrVy x y ∨ i = .subnVy x y ∨ i = .shlVy x y) ∨
    (∃ x y n, i = .drw x y n) ∨
    (∃ kk, i = .ldKk 15#4 kk ∨ i = .addKk 15#4 kk ∨ i = .rnd 15#4 kk) ∨
    (∃ y, i = .ldVy 15#4 y ∨ i = .orVy 15#4 y ∨ i = .andVy 15#4 y ∨ i = .xorVy 15#4 y) ∨
    i = .ldVxDt 15#4 ∨ i = .ldVxK 15#4 ∨ i = .ldVxMem 15#4

/-- Nothing a program can do depends on `ST`, `REDRAW` or `WAITKEY`: from two states that differ only there, every transition
leads to two states that differ only there (10_state.md R17, R21, R23, R28). -/
def Obligations.OutputsAreNeverRead : Prop :=
  ∀ s s' t : State, visible s = visible s' → step s = .next t →
    ∃ t', step s' = .next t' ∧ visible t = visible t'

/-! ### Control transfer -/

/-- JP: `PC` becomes `nnn`; nothing else changes (R102). -/
def Obligations.JpLoadsTarget : Prop :=
  ∀ (nnn : Addr12) (s : State), ∃ t, exec (.jp nnn) s = .next t ∧ t.pc.toNat = nnn.toNat ∧ OnlyPc s t

/-- JP V0: `PC` becomes `nnn` plus the register that the top nibble of `nnn` names, not reduced to 12 bits; nothing else
changes (R104). -/
def Obligations.JpV0AddsNamedRegister : Prop :=
  ∀ (nnn : Addr12) (s : State), ∃ t, exec (.jpV0 nnn) s = .next t ∧
    t.pc.toNat = nnn.toNat + vNat s (BitVec.ofNat 4 (nnn.toNat / 256)) ∧ t.pc.toNat ≤ 0x10FE ∧ OnlyPc s t

/-- CALL with a free entry: `Stack[SP]` takes `PC`, `SP` grows by 1, `PC` becomes `nnn`; nothing else changes. With the stack
full it raises `StackOverflow` and writes nothing else (R103, R201; `FAULT` by decision D10). -/
def Obligations.CallPushesOrOverflows : Prop :=
  ∀ (nnn : Addr12) (s : State),
    (∀ k : Fin 16, s.sp.val = k.val → ∃ t, exec (.call nnn) s = .next t ∧ t.stack[k] = s.pc ∧
      t.sp.val = s.sp.val + 1 ∧ t.pc.toNat = nnn.toNat ∧ OnlyStack k.val s t) ∧
    (s.sp.val = 16 → exec (.call nnn) s = .next { s with fault := some .stackOverflow })

/-- RET with a live entry: `PC` takes the top entry and `SP` shrinks by 1; the popped entry keeps its value and nothing else
changes. With the stack empty it raises `StackUnderflow` and writes nothing else (R101, R14, R202; `FAULT` by decision
D10). -/
def Obligations.RetPopsOrUnderflows : Prop :=
  ∀ s : State,
    (∀ k : Fin 16, s.sp.val = k.val + 1 → ∃ t, exec .ret s = .next t ∧ t.pc = s.stack[k] ∧ t.sp.val = k.val ∧
      t.stack = s.stack ∧ SameRegsBut [] s t ∧ SameMemory s t ∧ t = { s with pc := t.pc, sp := t.sp }) ∧
    (s.sp.val = 0 → exec .ret s = .next { s with fault := some .stackUnderflow })

/-- A subroutine that leaves the stack as CALL left it returns to the instruction after the CALL, whatever else it changed
(R101, R103). -/
def Obligations.RetUndoesCall : Prop :=
  ∀ (nnn : Addr12) (s t u : State), s.sp.val < 16 → exec (.call nnn) s = .next t → u.stack = t.stack → u.sp = t.sp →
    ∃ w, exec .ret u = .next w ∧ w.pc = s.pc ∧ w.sp = s.sp

/-! ### Skips -/

/-- SE Vx, kk and SNE Vx, kk: 2 more is added to `PC` exactly when the register equals, respectively does not equal, the
immediate; nothing else changes (R111, R112). -/
def Obligations.SkipOnImmediate : Prop :=
  ∀ (x : Reg) (kk : Byte) (s : State),
    (∃ t, exec (.seKk x kk) s = .next t ∧ OnlyPc s t ∧
      t.pc.toNat = (if vNat s x = kk.toNat then (s.pc.toNat + 2) % 65536 else s.pc.toNat)) ∧
    (∃ t, exec (.sneKk x kk) s = .next t ∧ OnlyPc s t ∧
      t.pc.toNat = (if vNat s x = kk.toNat then s.pc.toNat else (s.pc.toNat + 2) % 65536))

/-- SE Vx, Vy and SNE Vx, Vy: 2 more is added to `PC` exactly when the registers are equal, respectively different; the same
register always, respectively never, skips; nothing else changes (R113, R114). -/
def Obligations.SkipOnRegisters : Prop :=
  ∀ (x y : Reg) (s : State),
    (∃ t, exec (.seVy x y) s = .next t ∧ OnlyPc s t ∧
      t.pc.toNat = (if vNat s x = vNat s y then (s.pc.toNat + 2) % 65536 else s.pc.toNat)) ∧
    (∃ t, exec (.sneVy x y) s = .next t ∧ OnlyPc s t ∧
      t.pc.toNat = (if vNat s x = vNat s y then s.pc.toNat else (s.pc.toNat + 2) % 65536))

/-- SKP and SKNP: SKP skips when `V[x]` is at most 15 and that key is set, SKNP in every other case; nothing else changes
(R115, R116; an index above 15 is no key by decision D7, assumption 10). -/
def Obligations.SkipOnKey : Prop :=
  ∀ (x : Reg) (s : State),
    (∃ t, exec (.skp x) s = .next t ∧ OnlyPc s t ∧
      t.pc.toNat = (if vNat s x ≤ 15 ∧ s.keys.toNat / 2 ^ vNat s x % 2 = 1 then (s.pc.toNat + 2) % 65536 else s.pc.toNat)) ∧
    (∃ t, exec (.sknp x) s = .next t ∧ OnlyPc s t ∧
      t.pc.toNat = (if vNat s x ≤ 15 ∧ s.keys.toNat / 2 ^ vNat s x % 2 = 1 then s.pc.toNat else (s.pc.toNat + 2) % 65536))

/-! ### Loads, arithmetic, logic -/

/-- LD Vx, kk: the register takes the immediate; nothing else changes (R121). -/
def Obligations.LoadImmediate : Prop :=
  ∀ (x : Reg) (kk : Byte) (s : State), ∃ t, exec (.ldKk x kk) s = .next t ∧ getV t x = kk ∧ OnlyRegs [x] s t

/-- ADD Vx, kk: the sum modulo 256 and no flag: every other register, `V[15]` among them, is unchanged (R122). -/
def Obligations.AddImmediateWrapsWithoutFlag : Prop :=
  ∀ (x : Reg) (kk : Byte) (s : State), ∃ t, exec (.addKk x kk) s = .next t ∧
    vNat t x = (vNat s x + kk.toNat) % 256 ∧ OnlyRegs [x] s t

/-- LD Vx, Vy: the register takes the other's value; nothing else changes, nothing at all when they are the same (R123). -/
def Obligations.LoadRegister : Prop :=
  ∀ (x y : Reg) (s : State), ∃ t, exec (.ldVy x y) s = .next t ∧ getV t x = getV s y ∧ OnlyRegs [x] s t ∧
    (x = y → t = s)

/-- OR, AND and XOR, bit by bit; no flag; nothing else changes (R124, R125, R126). -/
def Obligations.LogicBitByBit : Prop :=
  ∀ (x y : Reg) (s : State),
    (∃ t, exec (.orVy x y) s = .next t ∧ OnlyRegs [x] s t ∧
      ∀ k, k < 8 → (getV t x).getLsbD k = ((getV s x).getLsbD k || (getV s y).getLsbD k)) ∧
    (∃ t, exec (.andVy x y) s = .next t ∧ OnlyRegs [x] s t ∧
      ∀ k, k < 8 → (getV t x).getLsbD k = ((getV s x).getLsbD k && (getV s y).getLsbD k)) ∧
    (∃ t, exec (.xorVy x y) s = .next t ∧ OnlyRegs [x] s t ∧
      ∀ k, k < 8 → (getV t x).getLsbD k = ((getV s x).getLsbD k ^^ (getV s y).getLsbD k))

/-- ADD Vx, Vy: the carry and the sum modulo 256, with every case of R127's table; where a register is 15 the sequential
reading decides (decision D5, assumption 8). -/
def Obligations.AddSetsCarry : Prop :=
  ∀ (x y : Reg) (s : State), ∃ t, exec (.addVy x y) s = .next t ∧ OnlyRegs [x, 15#4] s t ∧
    (x ≠ 15#4 → y ≠ 15#4 →
      vNat t x = (vNat s x + vNat s y) % 256 ∧ vNat t 15#4 = bit (vNat s x + vNat s y > 255)) ∧
    (x = 15#4 → y ≠ 15#4 → vNat t 15#4 = (bit (vNat s x + vNat s y > 255) + vNat s y) % 256) ∧
    (x ≠ 15#4 → y = 15#4 → vNat t 15#4 = bit (vNat s x + vNat s y > 255) ∧
      vNat t x = (vNat s x + bit (vNat s x + vNat s y > 255)) % 256) ∧
    (x = 15#4 → y = 15#4 → vNat t 15#4 = 2 * bit (vNat s x + vNat s y > 255))

/-- SUB Vx, Vy: the flag is 1 when the minuend is strictly greater, equal operands give 0; the difference modulo 256; every
case of R128's table, register 15 by the sequential reading (decision D5, assumption 8). -/
def Obligations.SubSetsStrictFlag : Prop :=
  ∀ (x y : Reg) (s : State), ∃ t, exec (.subVy x y) s = .next t ∧ OnlyRegs [x, 15#4] s t ∧
    (x ≠ 15#4 → y ≠ 15#4 →
      vNat t x = (256 + vNat s x - vNat s y) % 256 ∧ vNat t 15#4 = bit (vNat s x > vNat s y)) ∧
    (x = 15#4 → y ≠ 15#4 → vNat t 15#4 = (256 + bit (vNat s x > vNat s y) - vNat s y) % 256) ∧
    (x ≠ 15#4 → y = 15#4 → vNat t 15#4 = bit (vNat s x > vNat s y) ∧
      vNat t x = (256 + vNat s x - bit (vNat s x > vNat s y)) % 256) ∧
    (x = 15#4 → y = 15#4 → vNat t 15#4 = 0)

/-- SUBN Vx, Vy: SUB with the operands exchanged, with every case of R130's table (decision D5, assumption 8). -/
def Obligations.SubnSetsStrictFlag : Prop :=
  ∀ (x y : Reg) (s : State), ∃ t, exec (.subnVy x y) s = .next t ∧ OnlyRegs [x, 15#4] s t ∧
    (x ≠ 15#4 → y ≠ 15#4 →
      vNat t x = (256 + vNat s y - vNat s x) % 256 ∧ vNat t 15#4 = bit (vNat s y > vNat s x)) ∧
    (x = 15#4 → y ≠ 15#4 → vNat t 15#4 = (256 + vNat s y - bit (vNat s y > vNat s x)) % 256) ∧
    (x ≠ 15#4 → y = 15#4 → vNat t 15#4 = bit (vNat s y > vNat s x) ∧
      vNat t x = (256 + bit (vNat s y > vNat s x) - vNat s x) % 256) ∧
    (x = 15#4 → y = 15#4 → vNat t 15#4 = 0)

/-- SHR Vx, Vy: the flag is bit 0 of `V[y]`, `V[x]` is halved; every case of R129's table (decision D5, assumption 8). -/
def Obligations.ShrFlagFromVy : Prop :=
  ∀ (x y : Reg) (s : State), ∃ t, exec (.shrVy x y) s = .next t ∧ OnlyRegs [x, 15#4] s t ∧
    (x ≠ 15#4 → vNat t x = vNat s x / 2 ∧ vNat t 15#4 = vNat s y % 2) ∧
    (x = 15#4 → vNat t 15#4 = 0)

/-- SHL Vx, Vy: the flag is bit 7 of `V[y]`, `V[x]` is doubled modulo 256; every case of R131's table (decision D5, assumption
8). -/
def Obligations.ShlFlagFromVy : Prop :=
  ∀ (x y : Reg) (s : State), ∃ t, exec (.shlVy x y) s = .next t ∧ OnlyRegs [x, 15#4] s t ∧
    (x ≠ 15#4 → vNat t x = 2 * vNat s x % 256 ∧ vNat t 15#4 = vNat s y / 128) ∧
    (x = 15#4 → vNat t 15#4 = 2 * (vNat s y / 128))

/-- RND Vx, kk: the register takes a random byte masked with `kk`, whatever the byte is; the byte is sampled once and the next
RND samples another (R132, R29; the byte is the free value of assumption 1, so only the mask is known of the result). -/
def Obligations.RndMasksFreeByte : Prop :=
  ∀ (x : Reg) (kk : Byte) (s : State), ∃ t, exec (.rnd x kk) s = .next t ∧
    (∀ k, k < 8 → (getV t x).getLsbD k = ((Config.rnd s.rndCount).getLsbD k && kk.getLsbD k)) ∧
    (kk = 0#8 → getV t x = 0#8) ∧ getV t x &&& ~~~kk = 0#8 ∧ t.rndCount = s.rndCount + 1 ∧
    SameRegsBut [x] s t ∧ SameMemory s t ∧ t = { s with v := t.v, rndCount := t.rndCount }

/-! ### Index register and memory -/

/-- LD I, nnn and LD F, Vx: `I` takes `nnn`, respectively five times the whole byte of `V[x]`; nothing else changes (R140,
R142). -/
def Obligations.IndexLoads : Prop :=
  (∀ (nnn : Addr12) (s : State), ∃ t, exec (.ldI nnn) s = .next t ∧ t.i.toNat = nnn.toNat ∧ OnlyI s t) ∧
  (∀ (x : Reg) (s : State), ∃ t, exec (.ldF x) s = .next t ∧ t.i.toNat = vNat s x * 5 ∧ OnlyI s t)

/-- ADD I, Vx: the sum modulo 65536; no flag, no check of the result; nothing else changes (R141). -/
def Obligations.AddIndexWraps : Prop :=
  ∀ (x : Reg) (s : State), ∃ t, exec (.addI x) s = .next t ∧ t.i.toNat = (s.i.toNat + vNat s x) % 65536 ∧ OnlyI s t

/-- LD B, Vx in range: hundreds, tens and ones at `I`, `I + 1`, `I + 2`, each a digit, together the number of `V[x]`; every
other byte and everything else is unchanged. Out of range it raises `MemoryRange` and writes nothing else (R143; the range by
R45, decision D3). -/
def Obligations.DecimalDigitsStored : Prop :=
  ∀ (x : Reg) (s : State),
    (s.i.toNat + 2 ≤ 0xFFF → ∃ t, exec (.ldB x) s = .next t ∧ OnlyMemory s.i.toNat 3 s t ∧
      (readByte t.mem s.i.toNat).toNat = vNat s x / 100 ∧
      (readByte t.mem (s.i.toNat + 1)).toNat = vNat s x / 10 % 10 ∧
      (readByte t.mem (s.i.toNat + 2)).toNat = vNat s x % 10) ∧
    (s.i.toNat + 2 > 0xFFF → exec (.ldB x) s = .next { s with fault := some .memoryRange })

/-- LD [I], Vx in range: `V[k]` at `I + k` for every `k` up to `x`, `I` unchanged, every other byte and everything else
unchanged. Out of range it raises `MemoryRange` and stores nothing (R144; the range by R45, decision D3). -/
def Obligations.BulkStore : Prop :=
  ∀ (x : Reg) (s : State),
    (s.i.toNat + x.toNat ≤ 0xFFF → ∃ t, exec (.ldMemVx x) s = .next t ∧ OnlyMemory s.i.toNat (x.toNat + 1) s t ∧
      ∀ r : Reg, r.toNat ≤ x.toNat → readByte t.mem (s.i.toNat + r.toNat) = getV s r) ∧
    (s.i.toNat + x.toNat > 0xFFF → exec (.ldMemVx x) s = .next { s with fault := some .memoryRange })

/-- LD Vx, [I] in range: `V[k]` takes `Mem[I + k]` for every `k` up to `x`; the registers above `x`, memory and everything else
are unchanged. Out of range it raises `MemoryRange` and loads nothing (R145; the range by R45, decision D3). -/
def Obligations.BulkLoad : Prop :=
  ∀ (x : Reg) (s : State),
    (s.i.toNat + x.toNat ≤ 0xFFF → ∃ t, exec (.ldVxMem x) s = .next t ∧ SameMemory s t ∧ t = { s with v := t.v } ∧
      ∀ r : Reg, getV t r = if r.toNat ≤ x.toNat then readByte s.mem (s.i.toNat + r.toNat) else getV s r) ∧
    (s.i.toNat + x.toNat > 0xFFF → exec (.ldVxMem x) s = .next { s with fault := some .memoryRange })

/-- Registers stored by LD [I], Vx come back by LD Vx, [I] from the same `I`, whatever the registers hold in between (R144,
R145, R48). -/
def Obligations.BulkLoadUndoesStore : Prop :=
  ∀ (x : Reg) (s t u : State), s.i.toNat + x.toNat ≤ 0xFFF → exec (.ldMemVx x) s = .next t → u.mem = t.mem → u.i = t.i →
    ∃ w, exec (.ldVxMem x) u = .next w ∧ ∀ r : Reg, r.toNat ≤ x.toNat → getV w r = getV s r

/-- Self-modifying code is exact: the word the next step fetches is the one LD [I], Vx has just stored at `PC`, with nothing in
between (R52). -/
def Obligations.StoreSeenByNextFetch : Prop :=
  ∀ (x : Reg) (s : State), 1 ≤ x.toNat → s.i = s.pc → s.i.toNat + x.toNat ≤ 0xFFF →
    ∃ t, exec (.ldMemVx x) s = .next t ∧ t.pc = s.pc ∧
      (fetchWord t).toNat = vNat s 0#4 * 256 + vNat s 1#4

/-! ### Display -/

/-- CLS: every cell 0 and `REDRAW` 1, also on a clear display; `V[15]` and everything else unchanged (R150). -/
def Obligations.ClsClearsEveryCell : Prop :=
  ∀ s : State, ∃ t, exec .cls s = .next t ∧ (∀ px py, px < 64 → py < 32 → cell t px py = false) ∧ t.redraw = true ∧
    OnlyDisplay [] s t

/-- DRW with neither coordinate in register 15, in range: every cell the sprite covers, wrapped per pixel, is flipped and no
other; `V[15]` is 1 exactly when a covered cell was set; `REDRAW` is 1; nothing else changes, `I` and memory among it (R151,
R152; the wrap is decision D6, assumption 9; the range R45, decision D3). -/
def Obligations.DrwFlipsCoveredCells : Prop :=
  ∀ (x y : Reg) (n : Nibble) (s : State), x ≠ 15#4 → y ≠ 15#4 → (n = 0#4 ∨ s.i.toNat + n.toNat ≤ 0x1000) →
    ∃ t, exec (.drw x y n) s = .next t ∧ OnlyDisplay [15#4] s t ∧ t.redraw = true ∧
      (∀ px py, px < 64 → py < 32 → cell t px py = (cell s px py ^^ covers s x y n.toNat px py)) ∧
      ((∃ px py, px < 64 ∧ py < 32 ∧ covers s x y n.toNat px py = true ∧ cell s px py = true) → getV t 15#4 = 1#8) ∧
      ((∀ px py, px < 64 → py < 32 → covers s x y n.toNat px py = true → cell s px py = false) → getV t 15#4 = 0#8)

/-- DRW in every form, register 15 as a coordinate included, in range: a cell ends flipped when the number of set bits that
land on it is odd, where the bits up to and including the first collision land with `V[15]` = 0 and those after it with
`V[15]` = 1; the flag says whether there was a collision; `REDRAW` is 1; nothing else changes. Out of range it raises
`MemoryRange` and changes nothing else (R151, decision D5, assumption 8; R152, decision D6, assumption 9; R45, decision
D3). -/
def Obligations.DrwSequential : Prop :=
  ∀ (x y : Reg) (n : Nibble) (s : State),
    (n = 0#4 ∨ s.i.toNat + n.toNat ≤ 0x1000 → ∃ t, exec (.drw x y n) s = .next t ∧ OnlyDisplay [15#4] s t ∧
      t.redraw = true ∧
      (∀ px py, px < 64 → py < 32 → cell t px py = (cell s px py ^^ decide (toggles s x y n.toNat px py % 2 = 1))) ∧
      vNat t 15#4 = bit (beforeCollision s x y n.toNat < (setBits s n.toNat).length)) ∧
    (n ≠ 0#4 → s.i.toNat + n.toNat > 0x1000 → exec (.drw x y n) s = .next { s with fault := some .memoryRange })

/-- Drawing the same sprite twice at the same place gives the display back; if the sprite has a set bit and the cells it covers
were clear, the second draw sets `V[15]` to 1 (R151, its corner case "Drawing the same sprite twice"). -/
def Obligations.DrawingTwiceRestores : Prop :=
  ∀ (x y : Reg) (n : Nibble) (s t u : State), x ≠ 15#4 → y ≠ 15#4 → (n = 0#4 ∨ s.i.toNat + n.toNat ≤ 0x1000) →
    exec (.drw x y n) s = .next t → exec (.drw x y n) t = .next u →
    u.disp = s.disp ∧
    (setBits s n.toNat ≠ [] → (∀ px py, px < 64 → py < 32 → covers s x y n.toNat px py = true → cell s px py = false) →
      getV t 15#4 = 0#8 ∧ getV u 15#4 = 1#8)

/-! ### Timers and keys -/

/-- LD Vx, DT: the register takes the delay timer; nothing else changes (R160). -/
def Obligations.ReadDelayTimer : Prop :=
  ∀ (x : Reg) (s : State), ∃ t, exec (.ldVxDt x) s = .next t ∧ getV t x = s.dt ∧ OnlyRegs [x] s t

/-- LD DT, Vx and LD ST, Vx: the timer takes the register; the tone is on at once exactly when a non-zero value was written to
`ST`; nothing else changes (R162, R163). -/
def Obligations.WriteTimers : Prop :=
  ∀ (x : Reg) (s : State),
    (∃ t, exec (.ldDtVx x) s = .next t ∧ t.dt = getV s x ∧ SameRegsBut [] s t ∧ SameMemory s t ∧
      t = { s with dt := t.dt }) ∧
    (∃ t, exec (.ldStVx x) s = .next t ∧ t.st = getV s x ∧ (tone t = true ↔ vNat s x ≠ 0) ∧ SameRegsBut [] s t ∧
      SameMemory s t ∧ t = { s with st := t.st })

/-- `DT` rises only by Fx15: whatever the next event is, if `DT` is greater after it the event was a `Step` of a core that is not
halted, the word at `PC` was an LD DT, Vx and `DT` is its register. So between two reads of `DT` with no Fx15 in between the
second is never greater (R16, R160; the event `TimerTick` is decision D15). -/
def Obligations.DelayTimerRisesOnlyByLoad : Prop :=
  ∀ s t : State, step s = .next t → t.dt.toNat > s.dt.toNat →
    nextEvent s = .step ∧ s.fault = none ∧ ∃ x, decodeWord (fetchWord s) = some (.ldDtVx x) ∧ t.dt = getV s x

/-- LD Vx, K: with a key set the register takes the least index of a set key and nothing else changes; with none, `PC` goes back
by 2 to the instruction itself, `WAITKEY` is 1 and nothing else changes (R161; level and lowest index are decision D8,
assumption 11). -/
def Obligations.KeyWait : Prop :=
  ∀ (x : Reg) (s : State),
    (∀ k : KeyIdx, s.keys.getLsbD k.toNat = true → (∀ j, j < k.toNat → s.keys.getLsbD j = false) →
      ∃ t, exec (.ldVxK x) s = .next t ∧ vNat t x = k.toNat ∧ OnlyRegs [x] s t) ∧
    (s.keys = 0#16 → exec (.ldVxK x) s = .next { s with pc := s.pc - 2#16, waitkey := true })

/-- A key wait with no key set is one step that ends where it began: `PC` is still on the Fx0A and `WAITKEY` is 1, so the next
step executes it again (R161, R228; decision D8). -/
def Obligations.KeyWaitStepHoldsPc : Prop :=
  ∀ (s : State) (x : Reg), nextEvent s = .step → s.fault = none → s.pc.toNat ≤ 0xFFE →
    decode (readBytes s.mem s.pc.toNat 2) = .ok (.ldVxK x, []) → s.keys = 0#16 →
    step s = .next { s with schedule := s.schedule.tail, waitkey := true }

/-! ### Host events -/

/-- `TimerTick` decrements both timers, clamped at 0, and changes nothing else, halted or waiting included (R212, decision
D15). -/
def Obligations.TimerTickCountsDown : Prop :=
  ∀ (s : State) (rest : List HostEvent), s.schedule = .timerTick :: rest →
    ∃ t, step s = .next t ∧ t.dt.toNat = s.dt.toNat - 1 ∧ t.st.toNat = s.st.toNat - 1 ∧
      t = { s with dt := t.dt, st := t.st, schedule := rest }

/-- `KeyDown(k)` sets and `KeyUp(k)` clears the flag of key `k`, and neither changes anything else (R221). -/
def Obligations.KeyEvents : Prop :=
  ∀ (s : State) (k : KeyIdx) (rest : List HostEvent),
    (s.schedule = .keyDown k :: rest → ∃ t, step s = .next t ∧
      (∀ j, j < 16 → t.keys.getLsbD j = (decide (j = k.toNat) || s.keys.getLsbD j)) ∧
      t = { s with keys := t.keys, schedule := rest }) ∧
    (s.schedule = .keyUp k :: rest → ∃ t, step s = .next t ∧
      (∀ j, j < 16 → t.keys.getLsbD j = (!decide (j = k.toNat) && s.keys.getLsbD j)) ∧
      t = { s with keys := t.keys, schedule := rest })

/-- `ClearRedraw` clears `REDRAW` and nothing else; a display instruction sets it again (R222, R21). -/
def Obligations.ClearRedrawEvent : Prop :=
  ∀ (s : State) (rest : List HostEvent), s.schedule = .clearRedraw :: rest →
    step s = .next { s with redraw := false, schedule := rest }

/-- `LoadRom` writes the bytes from 0x200 up, those that would fall above 0xFFF nowhere, and touches nothing else; a ROM longer
than 3584 bytes is reported and sets no `FAULT` (R245; the truncation is decision D14, assumption 14). -/
def Obligations.LoadRomWritesProgram : Prop :=
  ∀ (s : State) (bytes : List Byte) (rest : List HostEvent), s.schedule = .loadRom bytes :: rest →
    (∃ t, step s = .next t ∧
      (∀ a, readByte t.mem a =
        if 0x200 ≤ a ∧ a ≤ 0xFFF ∧ a < 0x200 + bytes.length then bytes.getD (a - 0x200) 0#8 else readByte s.mem a) ∧
      t = { s with mem := t.mem, schedule := rest }) ∧
    (loadOverrun bytes = if bytes.length > 3584 then some bytes.length else none)

/-- `Reset` from any state, halted included: every register, the stack, the timers and the display 0, `PC` 0x200, the font at 0
and 0 in the rest of memory, `REDRAW` and `WAITKEY` 0, `FAULT` None; the keys stay (R240, R25; memory outside the font,
`REDRAW`, `WAITKEY` and the keys are decision D12, `FAULT` is decision D10; assumptions 6 and 7). -/
def Obligations.ResetEvent : Prop :=
  ∀ (s : State) (rest : List HostEvent), s.schedule = .reset :: rest →
    ∃ t, step s = .next t ∧ (∀ r, getV t r = 0#8) ∧ t.i = 0#16 ∧ t.pc = 0x200#16 ∧ t.sp = 0 ∧
      (∀ k : Fin 16, t.stack[k] = 0#16) ∧ t.dt = 0#8 ∧ t.st = 0#8 ∧ (∀ px py, cell t px py = false) ∧
      (∀ a, readByte t.mem a = if a < 80 then font.getD a 0#8 else 0#8) ∧
      t.redraw = false ∧ t.waitkey = false ∧ t.fault = none ∧ t.keys = s.keys ∧ t.schedule = rest

/-- After power-on glyph `d` stands at `5 * d`, five bytes, and every byte from 0x050 to 0xFFF is 0 (R55, R241; the zeros are
decision D12, assumption 6; which bytes the glyphs are, assumption 5, plays no part). -/
def Obligations.FontInPlaceAtPowerOn : Prop :=
  (∀ d r, d < 16 → r < 5 → readByte State.reset.mem (5 * d + r) = glyphByte d r) ∧
  (∀ a, 0x50 ≤ a → a ≤ 0xFFF → readByte State.reset.mem a = 0#8)

/-! ### Debug port and the end of a run -/

/-- The debug port reads every piece of state: two states that no selection of the port tells apart are the same, but for the two
fields that are the model's own and no state of the spec (assumptions 1 and 2). Memory is compared in its canonical form, which
`StepKeepsLegal` keeps (R27, R224; the selections beyond the row of R225 are the model's, assumption 4). -/
def Obligations.DebugPortReadsAllState : Prop :=
  ∀ s s' : State, Memory.wf s.mem = true → Memory.wf s'.mem = true → (∀ sel, debugRead s sel = debugRead s' sel) →
    s' = { s with rndCount := s'.rndCount, schedule := s'.schedule }

/-- A run that has ended stays ended: a step changes nothing but `WAITKEY`, which every fetch clears, and after any event but
`Reset` and `LoadRom` the run is still ended, whatever the timers and the keys do (R247; the definition of the end is the model's,
from the example R247 gives, assumption 22). -/
def Obligations.EndedRunStaysEnded : Prop :=
  ∀ s t : State, RunEnded s → step s = .next t →
    (nextEvent s = .step → t = { s with schedule := s.schedule.tail, waitkey := false }) ∧
    (RunEnded t ∨ nextEvent s = .reset ∨ ∃ bytes, nextEvent s = .loadRom bytes)
end

