-- ==== Sys2Proof/Laws/State.lean ====
section
/-! SUPPORT. One lemma per field per update, each true by unfolding the update, so that no proof unfolds a record update. -/

namespace Sys2Proof.Machine

variable (s : State)

/-! `setRegs` -/
@[simp] theorem setRegs_v (r : Vector Byte 16) : (setRegs s r).v = r := rfl
@[simp] theorem setRegs_i (r : Vector Byte 16) : (setRegs s r).i = s.i := rfl
@[simp] theorem setRegs_pc (r : Vector Byte 16) : (setRegs s r).pc = s.pc := rfl
@[simp] theorem setRegs_stack (r : Vector Byte 16) : (setRegs s r).stack = s.stack := rfl
@[simp] theorem setRegs_sp (r : Vector Byte 16) : (setRegs s r).sp = s.sp := rfl
@[simp] theorem setRegs_dt (r : Vector Byte 16) : (setRegs s r).dt = s.dt := rfl
@[simp] theorem setRegs_st (r : Vector Byte 16) : (setRegs s r).st = s.st := rfl
@[simp] theorem setRegs_mem (r : Vector Byte 16) : (setRegs s r).mem = s.mem := rfl
@[simp] theorem setRegs_disp (r : Vector Byte 16) : (setRegs s r).disp = s.disp := rfl
@[simp] theorem setRegs_keys (r : Vector Byte 16) : (setRegs s r).keys = s.keys := rfl
@[simp] theorem setRegs_redraw (r : Vector Byte 16) : (setRegs s r).redraw = s.redraw := rfl
@[simp] theorem setRegs_waitkey (r : Vector Byte 16) : (setRegs s r).waitkey = s.waitkey := rfl
@[simp] theorem setRegs_fault (r : Vector Byte 16) : (setRegs s r).fault = s.fault := rfl
@[simp] theorem setRegs_rndCount (r : Vector Byte 16) : (setRegs s r).rndCount = s.rndCount := rfl
@[simp] theorem setRegs_schedule (r : Vector Byte 16) : (setRegs s r).schedule = s.schedule := rfl

/-! `setI` -/
@[simp] theorem setI_v (w : Word) : (setI s w).v = s.v := rfl
@[simp] theorem setI_i (w : Word) : (setI s w).i = w := rfl
@[simp] theorem setI_pc (w : Word) : (setI s w).pc = s.pc := rfl
@[simp] theorem setI_stack (w : Word) : (setI s w).stack = s.stack := rfl
@[simp] theorem setI_sp (w : Word) : (setI s w).sp = s.sp := rfl
@[simp] theorem setI_dt (w : Word) : (setI s w).dt = s.dt := rfl
@[simp] theorem setI_st (w : Word) : (setI s w).st = s.st := rfl
@[simp] theorem setI_mem (w : Word) : (setI s w).mem = s.mem := rfl
@[simp] theorem setI_disp (w : Word) : (setI s w).disp = s.disp := rfl
@[simp] theorem setI_keys (w : Word) : (setI s w).keys = s.keys := rfl
@[simp] theorem setI_redraw (w : Word) : (setI s w).redraw = s.redraw := rfl
@[simp] theorem setI_waitkey (w : Word) : (setI s w).waitkey = s.waitkey := rfl
@[simp] theorem setI_fault (w : Word) : (setI s w).fault = s.fault := rfl
@[simp] theorem setI_rndCount (w : Word) : (setI s w).rndCount = s.rndCount := rfl
@[simp] theorem setI_schedule (w : Word) : (setI s w).schedule = s.schedule := rfl

/-! `setPc` -/
@[simp] theorem setPc_v (w : Word) : (setPc s w).v = s.v := rfl
@[simp] theorem setPc_i (w : Word) : (setPc s w).i = s.i := rfl
@[simp] theorem setPc_pc (w : Word) : (setPc s w).pc = w := rfl
@[simp] theorem setPc_stack (w : Word) : (setPc s w).stack = s.stack := rfl
@[simp] theorem setPc_sp (w : Word) : (setPc s w).sp = s.sp := rfl
@[simp] theorem setPc_dt (w : Word) : (setPc s w).dt = s.dt := rfl
@[simp] theorem setPc_st (w : Word) : (setPc s w).st = s.st := rfl
@[simp] theorem setPc_mem (w : Word) : (setPc s w).mem = s.mem := rfl
@[simp] theorem setPc_disp (w : Word) : (setPc s w).disp = s.disp := rfl
@[simp] theorem setPc_keys (w : Word) : (setPc s w).keys = s.keys := rfl
@[simp] theorem setPc_redraw (w : Word) : (setPc s w).redraw = s.redraw := rfl
@[simp] theorem setPc_waitkey (w : Word) : (setPc s w).waitkey = s.waitkey := rfl
@[simp] theorem setPc_fault (w : Word) : (setPc s w).fault = s.fault := rfl
@[simp] theorem setPc_rndCount (w : Word) : (setPc s w).rndCount = s.rndCount := rfl
@[simp] theorem setPc_schedule (w : Word) : (setPc s w).schedule = s.schedule := rfl

/-! `setStack` -/
@[simp] theorem setStack_v (k : Vector Word 16) : (setStack s k).v = s.v := rfl
@[simp] theorem setStack_i (k : Vector Word 16) : (setStack s k).i = s.i := rfl
@[simp] theorem setStack_pc (k : Vector Word 16) : (setStack s k).pc = s.pc := rfl
@[simp] theorem setStack_stack (k : Vector Word 16) : (setStack s k).stack = k := rfl
@[simp] theorem setStack_sp (k : Vector Word 16) : (setStack s k).sp = s.sp := rfl
@[simp] theorem setStack_dt (k : Vector Word 16) : (setStack s k).dt = s.dt := rfl
@[simp] theorem setStack_st (k : Vector Word 16) : (setStack s k).st = s.st := rfl
@[simp] theorem setStack_mem (k : Vector Word 16) : (setStack s k).mem = s.mem := rfl
@[simp] theorem setStack_disp (k : Vector Word 16) : (setStack s k).disp = s.disp := rfl
@[simp] theorem setStack_keys (k : Vector Word 16) : (setStack s k).keys = s.keys := rfl
@[simp] theorem setStack_redraw (k : Vector Word 16) : (setStack s k).redraw = s.redraw := rfl
@[simp] theorem setStack_waitkey (k : Vector Word 16) : (setStack s k).waitkey = s.waitkey := rfl
@[simp] theorem setStack_fault (k : Vector Word 16) : (setStack s k).fault = s.fault := rfl
@[simp] theorem setStack_rndCount (k : Vector Word 16) : (setStack s k).rndCount = s.rndCount := rfl
@[simp] theorem setStack_schedule (k : Vector Word 16) : (setStack s k).schedule = s.schedule := rfl

/-! `setSp` -/
@[simp] theorem setSp_v (n : Fin 17) : (setSp s n).v = s.v := rfl
@[simp] theorem setSp_i (n : Fin 17) : (setSp s n).i = s.i := rfl
@[simp] theorem setSp_pc (n : Fin 17) : (setSp s n).pc = s.pc := rfl
@[simp] theorem setSp_stack (n : Fin 17) : (setSp s n).stack = s.stack := rfl
@[simp] theorem setSp_sp (n : Fin 17) : (setSp s n).sp = n := rfl
@[simp] theorem setSp_dt (n : Fin 17) : (setSp s n).dt = s.dt := rfl
@[simp] theorem setSp_st (n : Fin 17) : (setSp s n).st = s.st := rfl
@[simp] theorem setSp_mem (n : Fin 17) : (setSp s n).mem = s.mem := rfl
@[simp] theorem setSp_disp (n : Fin 17) : (setSp s n).disp = s.disp := rfl
@[simp] theorem setSp_keys (n : Fin 17) : (setSp s n).keys = s.keys := rfl
@[simp] theorem setSp_redraw (n : Fin 17) : (setSp s n).redraw = s.redraw := rfl
@[simp] theorem setSp_waitkey (n : Fin 17) : (setSp s n).waitkey = s.waitkey := rfl
@[simp] theorem setSp_fault (n : Fin 17) : (setSp s n).fault = s.fault := rfl
@[simp] theorem setSp_rndCount (n : Fin 17) : (setSp s n).rndCount = s.rndCount := rfl
@[simp] theorem setSp_schedule (n : Fin 17) : (setSp s n).schedule = s.schedule := rfl

/-! `setDt` -/
@[simp] theorem setDt_v (b : Byte) : (setDt s b).v = s.v := rfl
@[simp] theorem setDt_i (b : Byte) : (setDt s b).i = s.i := rfl
@[simp] theorem setDt_pc (b : Byte) : (setDt s b).pc = s.pc := rfl
@[simp] theorem setDt_stack (b : Byte) : (setDt s b).stack = s.stack := rfl
@[simp] theorem setDt_sp (b : Byte) : (setDt s b).sp = s.sp := rfl
@[simp] theorem setDt_dt (b : Byte) : (setDt s b).dt = b := rfl
@[simp] theorem setDt_st (b : Byte) : (setDt s b).st = s.st := rfl
@[simp] theorem setDt_mem (b : Byte) : (setDt s b).mem = s.mem := rfl
@[simp] theorem setDt_disp (b : Byte) : (setDt s b).disp = s.disp := rfl
@[simp] theorem setDt_keys (b : Byte) : (setDt s b).keys = s.keys := rfl
@[simp] theorem setDt_redraw (b : Byte) : (setDt s b).redraw = s.redraw := rfl
@[simp] theorem setDt_waitkey (b : Byte) : (setDt s b).waitkey = s.waitkey := rfl
@[simp] theorem setDt_fault (b : Byte) : (setDt s b).fault = s.fault := rfl
@[simp] theorem setDt_rndCount (b : Byte) : (setDt s b).rndCount = s.rndCount := rfl
@[simp] theorem setDt_schedule (b : Byte) : (setDt s b).schedule = s.schedule := rfl

/-! `setSt` -/
@[simp] theorem setSt_v (b : Byte) : (setSt s b).v = s.v := rfl
@[simp] theorem setSt_i (b : Byte) : (setSt s b).i = s.i := rfl
@[simp] theorem setSt_pc (b : Byte) : (setSt s b).pc = s.pc := rfl
@[simp] theorem setSt_stack (b : Byte) : (setSt s b).stack = s.stack := rfl
@[simp] theorem setSt_sp (b : Byte) : (setSt s b).sp = s.sp := rfl
@[simp] theorem setSt_dt (b : Byte) : (setSt s b).dt = s.dt := rfl
@[simp] theorem setSt_st (b : Byte) : (setSt s b).st = b := rfl
@[simp] theorem setSt_mem (b : Byte) : (setSt s b).mem = s.mem := rfl
@[simp] theorem setSt_disp (b : Byte) : (setSt s b).disp = s.disp := rfl
@[simp] theorem setSt_keys (b : Byte) : (setSt s b).keys = s.keys := rfl
@[simp] theorem setSt_redraw (b : Byte) : (setSt s b).redraw = s.redraw := rfl
@[simp] theorem setSt_waitkey (b : Byte) : (setSt s b).waitkey = s.waitkey := rfl
@[simp] theorem setSt_fault (b : Byte) : (setSt s b).fault = s.fault := rfl
@[simp] theorem setSt_rndCount (b : Byte) : (setSt s b).rndCount = s.rndCount := rfl
@[simp] theorem setSt_schedule (b : Byte) : (setSt s b).schedule = s.schedule := rfl

/-! `setMem` -/
@[simp] theorem setMem_v (m : Memory) : (setMem s m).v = s.v := rfl
@[simp] theorem setMem_i (m : Memory) : (setMem s m).i = s.i := rfl
@[simp] theorem setMem_pc (m : Memory) : (setMem s m).pc = s.pc := rfl
@[simp] theorem setMem_stack (m : Memory) : (setMem s m).stack = s.stack := rfl
@[simp] theorem setMem_sp (m : Memory) : (setMem s m).sp = s.sp := rfl
@[simp] theorem setMem_dt (m : Memory) : (setMem s m).dt = s.dt := rfl
@[simp] theorem setMem_st (m : Memory) : (setMem s m).st = s.st := rfl
@[simp] theorem setMem_mem (m : Memory) : (setMem s m).mem = m := rfl
@[simp] theorem setMem_disp (m : Memory) : (setMem s m).disp = s.disp := rfl
@[simp] theorem setMem_keys (m : Memory) : (setMem s m).keys = s.keys := rfl
@[simp] theorem setMem_redraw (m : Memory) : (setMem s m).redraw = s.redraw := rfl
@[simp] theorem setMem_waitkey (m : Memory) : (setMem s m).waitkey = s.waitkey := rfl
@[simp] theorem setMem_fault (m : Memory) : (setMem s m).fault = s.fault := rfl
@[simp] theorem setMem_rndCount (m : Memory) : (setMem s m).rndCount = s.rndCount := rfl
@[simp] theorem setMem_schedule (m : Memory) : (setMem s m).schedule = s.schedule := rfl

/-! `setDisp` -/
@[simp] theorem setDisp_v (d : Vector (BitVec 64) 32) : (setDisp s d).v = s.v := rfl
@[simp] theorem setDisp_i (d : Vector (BitVec 64) 32) : (setDisp s d).i = s.i := rfl
@[simp] theorem setDisp_pc (d : Vector (BitVec 64) 32) : (setDisp s d).pc = s.pc := rfl
@[simp] theorem setDisp_stack (d : Vector (BitVec 64) 32) : (setDisp s d).stack = s.stack := rfl
@[simp] theorem setDisp_sp (d : Vector (BitVec 64) 32) : (setDisp s d).sp = s.sp := rfl
@[simp] theorem setDisp_dt (d : Vector (BitVec 64) 32) : (setDisp s d).dt = s.dt := rfl
@[simp] theorem setDisp_st (d : Vector (BitVec 64) 32) : (setDisp s d).st = s.st := rfl
@[simp] theorem setDisp_mem (d : Vector (BitVec 64) 32) : (setDisp s d).mem = s.mem := rfl
@[simp] theorem setDisp_disp (d : Vector (BitVec 64) 32) : (setDisp s d).disp = d := rfl
@[simp] theorem setDisp_keys (d : Vector (BitVec 64) 32) : (setDisp s d).keys = s.keys := rfl
@[simp] theorem setDisp_redraw (d : Vector (BitVec 64) 32) : (setDisp s d).redraw = s.redraw := rfl
@[simp] theorem setDisp_waitkey (d : Vector (BitVec 64) 32) : (setDisp s d).waitkey = s.waitkey := rfl
@[simp] theorem setDisp_fault (d : Vector (BitVec 64) 32) : (setDisp s d).fault = s.fault := rfl
@[simp] theorem setDisp_rndCount (d : Vector (BitVec 64) 32) : (setDisp s d).rndCount = s.rndCount := rfl
@[simp] theorem setDisp_schedule (d : Vector (BitVec 64) 32) : (setDisp s d).schedule = s.schedule := rfl

/-! `setKeys` -/
@[simp] theorem setKeys_v (k : BitVec 16) : (setKeys s k).v = s.v := rfl
@[simp] theorem setKeys_i (k : BitVec 16) : (setKeys s k).i = s.i := rfl
@[simp] theorem setKeys_pc (k : BitVec 16) : (setKeys s k).pc = s.pc := rfl
@[simp] theorem setKeys_stack (k : BitVec 16) : (setKeys s k).stack = s.stack := rfl
@[simp] theorem setKeys_sp (k : BitVec 16) : (setKeys s k).sp = s.sp := rfl
@[simp] theorem setKeys_dt (k : BitVec 16) : (setKeys s k).dt = s.dt := rfl
@[simp] theorem setKeys_st (k : BitVec 16) : (setKeys s k).st = s.st := rfl
@[simp] theorem setKeys_mem (k : BitVec 16) : (setKeys s k).mem = s.mem := rfl
@[simp] theorem setKeys_disp (k : BitVec 16) : (setKeys s k).disp = s.disp := rfl
@[simp] theorem setKeys_keys (k : BitVec 16) : (setKeys s k).keys = k := rfl
@[simp] theorem setKeys_redraw (k : BitVec 16) : (setKeys s k).redraw = s.redraw := rfl
@[simp] theorem setKeys_waitkey (k : BitVec 16) : (setKeys s k).waitkey = s.waitkey := rfl
@[simp] theorem setKeys_fault (k : BitVec 16) : (setKeys s k).fault = s.fault := rfl
@[simp] theorem setKeys_rndCount (k : BitVec 16) : (setKeys s k).rndCount = s.rndCount := rfl
@[simp] theorem setKeys_schedule (k : BitVec 16) : (setKeys s k).schedule = s.schedule := rfl

/-! `setRedraw` -/
@[simp] theorem setRedraw_v (b : Bool) : (setRedraw s b).v = s.v := rfl
@[simp] theorem setRedraw_i (b : Bool) : (setRedraw s b).i = s.i := rfl
@[simp] theorem setRedraw_pc (b : Bool) : (setRedraw s b).pc = s.pc := rfl
@[simp] theorem setRedraw_stack (b : Bool) : (setRedraw s b).stack = s.stack := rfl
@[simp] theorem setRedraw_sp (b : Bool) : (setRedraw s b).sp = s.sp := rfl
@[simp] theorem setRedraw_dt (b : Bool) : (setRedraw s b).dt = s.dt := rfl
@[simp] theorem setRedraw_st (b : Bool) : (setRedraw s b).st = s.st := rfl
@[simp] theorem setRedraw_mem (b : Bool) : (setRedraw s b).mem = s.mem := rfl
@[simp] theorem setRedraw_disp (b : Bool) : (setRedraw s b).disp = s.disp := rfl
@[simp] theorem setRedraw_keys (b : Bool) : (setRedraw s b).keys = s.keys := rfl
@[simp] theorem setRedraw_redraw (b : Bool) : (setRedraw s b).redraw = b := rfl
@[simp] theorem setRedraw_waitkey (b : Bool) : (setRedraw s b).waitkey = s.waitkey := rfl
@[simp] theorem setRedraw_fault (b : Bool) : (setRedraw s b).fault = s.fault := rfl
@[simp] theorem setRedraw_rndCount (b : Bool) : (setRedraw s b).rndCount = s.rndCount := rfl
@[simp] theorem setRedraw_schedule (b : Bool) : (setRedraw s b).schedule = s.schedule := rfl

/-! `setWaitkey` -/
@[simp] theorem setWaitkey_v (b : Bool) : (setWaitkey s b).v = s.v := rfl
@[simp] theorem setWaitkey_i (b : Bool) : (setWaitkey s b).i = s.i := rfl
@[simp] theorem setWaitkey_pc (b : Bool) : (setWaitkey s b).pc = s.pc := rfl
@[simp] theorem setWaitkey_stack (b : Bool) : (setWaitkey s b).stack = s.stack := rfl
@[simp] theorem setWaitkey_sp (b : Bool) : (setWaitkey s b).sp = s.sp := rfl
@[simp] theorem setWaitkey_dt (b : Bool) : (setWaitkey s b).dt = s.dt := rfl
@[simp] theorem setWaitkey_st (b : Bool) : (setWaitkey s b).st = s.st := rfl
@[simp] theorem setWaitkey_mem (b : Bool) : (setWaitkey s b).mem = s.mem := rfl
@[simp] theorem setWaitkey_disp (b : Bool) : (setWaitkey s b).disp = s.disp := rfl
@[simp] theorem setWaitkey_keys (b : Bool) : (setWaitkey s b).keys = s.keys := rfl
@[simp] theorem setWaitkey_redraw (b : Bool) : (setWaitkey s b).redraw = s.redraw := rfl
@[simp] theorem setWaitkey_waitkey (b : Bool) : (setWaitkey s b).waitkey = b := rfl
@[simp] theorem setWaitkey_fault (b : Bool) : (setWaitkey s b).fault = s.fault := rfl
@[simp] theorem setWaitkey_rndCount (b : Bool) : (setWaitkey s b).rndCount = s.rndCount := rfl
@[simp] theorem setWaitkey_schedule (b : Bool) : (setWaitkey s b).schedule = s.schedule := rfl

/-! `setFault` -/
@[simp] theorem setFault_v (f : Option Fatal) : (setFault s f).v = s.v := rfl
@[simp] theorem setFault_i (f : Option Fatal) : (setFault s f).i = s.i := rfl
@[simp] theorem setFault_pc (f : Option Fatal) : (setFault s f).pc = s.pc := rfl
@[simp] theorem setFault_stack (f : Option Fatal) : (setFault s f).stack = s.stack := rfl
@[simp] theorem setFault_sp (f : Option Fatal) : (setFault s f).sp = s.sp := rfl
@[simp] theorem setFault_dt (f : Option Fatal) : (setFault s f).dt = s.dt := rfl
@[simp] theorem setFault_st (f : Option Fatal) : (setFault s f).st = s.st := rfl
@[simp] theorem setFault_mem (f : Option Fatal) : (setFault s f).mem = s.mem := rfl
@[simp] theorem setFault_disp (f : Option Fatal) : (setFault s f).disp = s.disp := rfl
@[simp] theorem setFault_keys (f : Option Fatal) : (setFault s f).keys = s.keys := rfl
@[simp] theorem setFault_redraw (f : Option Fatal) : (setFault s f).redraw = s.redraw := rfl
@[simp] theorem setFault_waitkey (f : Option Fatal) : (setFault s f).waitkey = s.waitkey := rfl
@[simp] theorem setFault_fault (f : Option Fatal) : (setFault s f).fault = f := rfl
@[simp] theorem setFault_rndCount (f : Option Fatal) : (setFault s f).rndCount = s.rndCount := rfl
@[simp] theorem setFault_schedule (f : Option Fatal) : (setFault s f).schedule = s.schedule := rfl

/-! `setRndCount` -/
@[simp] theorem setRndCount_v (n : Nat) : (setRndCount s n).v = s.v := rfl
@[simp] theorem setRndCount_i (n : Nat) : (setRndCount s n).i = s.i := rfl
@[simp] theorem setRndCount_pc (n : Nat) : (setRndCount s n).pc = s.pc := rfl
@[simp] theorem setRndCount_stack (n : Nat) : (setRndCount s n).stack = s.stack := rfl
@[simp] theorem setRndCount_sp (n : Nat) : (setRndCount s n).sp = s.sp := rfl
@[simp] theorem setRndCount_dt (n : Nat) : (setRndCount s n).dt = s.dt := rfl
@[simp] theorem setRndCount_st (n : Nat) : (setRndCount s n).st = s.st := rfl
@[simp] theorem setRndCount_mem (n : Nat) : (setRndCount s n).mem = s.mem := rfl
@[simp] theorem setRndCount_disp (n : Nat) : (setRndCount s n).disp = s.disp := rfl
@[simp] theorem setRndCount_keys (n : Nat) : (setRndCount s n).keys = s.keys := rfl
@[simp] theorem setRndCount_redraw (n : Nat) : (setRndCount s n).redraw = s.redraw := rfl
@[simp] theorem setRndCount_waitkey (n : Nat) : (setRndCount s n).waitkey = s.waitkey := rfl
@[simp] theorem setRndCount_fault (n : Nat) : (setRndCount s n).fault = s.fault := rfl
@[simp] theorem setRndCount_rndCount (n : Nat) : (setRndCount s n).rndCount = n := rfl
@[simp] theorem setRndCount_schedule (n : Nat) : (setRndCount s n).schedule = s.schedule := rfl

/-! `setSchedule` -/
@[simp] theorem setSchedule_v (l : List HostEvent) : (setSchedule s l).v = s.v := rfl
@[simp] theorem setSchedule_i (l : List HostEvent) : (setSchedule s l).i = s.i := rfl
@[simp] theorem setSchedule_pc (l : List HostEvent) : (setSchedule s l).pc = s.pc := rfl
@[simp] theorem setSchedule_stack (l : List HostEvent) : (setSchedule s l).stack = s.stack := rfl
@[simp] theorem setSchedule_sp (l : List HostEvent) : (setSchedule s l).sp = s.sp := rfl
@[simp] theorem setSchedule_dt (l : List HostEvent) : (setSchedule s l).dt = s.dt := rfl
@[simp] theorem setSchedule_st (l : List HostEvent) : (setSchedule s l).st = s.st := rfl
@[simp] theorem setSchedule_mem (l : List HostEvent) : (setSchedule s l).mem = s.mem := rfl
@[simp] theorem setSchedule_disp (l : List HostEvent) : (setSchedule s l).disp = s.disp := rfl
@[simp] theorem setSchedule_keys (l : List HostEvent) : (setSchedule s l).keys = s.keys := rfl
@[simp] theorem setSchedule_redraw (l : List HostEvent) : (setSchedule s l).redraw = s.redraw := rfl
@[simp] theorem setSchedule_waitkey (l : List HostEvent) : (setSchedule s l).waitkey = s.waitkey := rfl
@[simp] theorem setSchedule_fault (l : List HostEvent) : (setSchedule s l).fault = s.fault := rfl
@[simp] theorem setSchedule_rndCount (l : List HostEvent) : (setSchedule s l).rndCount = s.rndCount := rfl
@[simp] theorem setSchedule_schedule (l : List HostEvent) : (setSchedule s l).schedule = l := rfl

end Sys2Proof.Machine
end

