-- ==== Sys2Proof/Laws/Mem.lean ====
section
/-! SUPPORT. Memory: a byte reads as what was last stored there, a store leaves every other address alone, and every memory
operation keeps the canonical form. -/

namespace Sys2Proof.Machine

/-! ### Reading after a store -/

theorem readByte_insertCell (m : Memory) (a c : Nat) (b : Byte) :
    readByte (insertCell m a b) c = if c = a then b else readByte m c := by
  induction m with
  | nil => by_cases h : a = c <;> simp [insertCell, readByte, h, eq_comm]
  | cons p rest ih =>
    obtain ⟨k, d⟩ := p
    simp only [insertCell]
    split
    · by_cases h : a = c <;> simp [readByte, h, eq_comm]
    · split
      · rename_i h; subst h
        by_cases h : a = c <;> simp [readByte, h, eq_comm]
      · rename_i h1 h2
        simp only [readByte, ih]
        by_cases hk : k = c
        · have : c ≠ a := fun h => h2 (h ▸ hk.symm)
          simp [hk, this]
        · simp [hk]

theorem readByte_eraseCell (m : Memory) (a c : Nat) :
    readByte (eraseCell m a) c = if c = a then resetByte a else readByte m c := by
  induction m with
  | nil => by_cases h : c = a <;> simp [eraseCell, readByte, h]
  | cons p rest ih =>
    obtain ⟨k, d⟩ := p
    simp only [eraseCell] at ih ⊢
    by_cases hk : k = a
    · subst hk
      simp only [List.filter_cons, bne_self_eq_false, Bool.false_eq_true, if_false, ih, readByte]
      by_cases hc : c = k
      · simp [hc]
      · simp [hc, Ne.symm hc]
    · simp only [List.filter_cons, bne_iff_ne, ne_eq, hk, not_false_eq_true, if_true, readByte, ih]
      by_cases hc : k = c
      · have : c ≠ a := fun h => hk (hc.trans h)
        simp [hc, this]
      · simp [hc]

/-- What a byte store does to a read: the byte at its address, nothing anywhere else (R48, R49). -/
theorem readByte_writeByte (m : Memory) (a c : Nat) (b : Byte) (ha : a < Config.memSize) :
    readByte (writeByte m a b) c = if c = a then b else readByte m c := by
  have : inMemory a = true := by simp [inMemory, ha]
  simp only [writeByte, this, if_true]
  split
  · rename_i h; rw [readByte_eraseCell, h]
  · exact readByte_insertCell m a c b

/-- What a run of byte stores does to a read: the byte that falls on the address, or what was there (R47). -/
theorem readByte_writeBytes (bs : List Byte) (m : Memory) (a c : Nat) (h : a + bs.length ≤ Config.memSize) :
    readByte (writeBytes m a bs) c = if a ≤ c ∧ c < a + bs.length then bs.getD (c - a) 0#8 else readByte m c := by
  induction bs generalizing m a with
  | nil =>
    have : ¬ (a ≤ c ∧ c < a + ([] : List Byte).length) := by simp
    rw [if_neg this]; rfl
  | cons b rest ih =>
    simp only [List.length_cons] at h ⊢
    simp only [writeBytes]
    rw [ih (writeByte m a b) (a + 1) (by omega), readByte_writeByte m a c b (by omega)]
    by_cases h1 : a + 1 ≤ c ∧ c < a + 1 + rest.length
    · have h2 : a ≤ c ∧ c < a + (rest.length + 1) := by omega
      have h3 : c - a = (c - (a + 1)) + 1 := by omega
      rw [if_pos h1, if_pos h2, h3, List.getD_cons_succ]
    · by_cases h2 : c = a
      · subst h2
        have h3 : c ≤ c ∧ c < c + (rest.length + 1) := by omega
        rw [if_neg h1, if_pos h3, if_pos rfl]; simp
      · have h3 : ¬ (a ≤ c ∧ c < a + (rest.length + 1)) := by omega
        rw [if_neg h1, if_neg h3, if_neg h2]

@[simp] theorem writeByte_outside (m : Memory) (a : Nat) (b : Byte) (h : ¬ a < Config.memSize) : writeByte m a b = m := by
  have : inMemory a = false := by simpa [inMemory] using h
  simp [writeByte, this]

theorem readBytes_length (m : Memory) (a count : Nat) : (readBytes m a count).length = count := by simp [readBytes]

theorem readBytes_getElem (m : Memory) (a count k : Nat) (h : k < (readBytes m a count).length) :
    (readBytes m a count)[k] = readByte m (a + k) := by simp [readBytes]

/-! ### The canonical form -/

theorem wfFrom_mono (m : Memory) (lo lo' : Nat) (h : lo ≤ lo') (hm : wfFrom lo' m = true) : wfFrom lo m = true := by
  cases m with
  | nil => rfl
  | cons p rest =>
    obtain ⟨k, d⟩ := p
    simp only [wfFrom, Bool.and_eq_true, decide_eq_true_eq] at hm ⊢
    exact ⟨⟨⟨by omega, hm.1.1.2⟩, hm.1.2⟩, hm.2⟩

theorem wfFrom_insertCell (m : Memory) (lo a : Nat) (b : Byte) (hlo : lo ≤ a) (ha : a < Config.memSize)
    (hb : b ≠ resetByte a) (hm : wfFrom lo m = true) : wfFrom lo (insertCell m a b) = true := by
  have hi : inMemory a = true := by simp [inMemory, ha]
  induction m generalizing lo with
  | nil => simp [insertCell, wfFrom, hlo, hi, hb]
  | cons p rest ih =>
    obtain ⟨k, d⟩ := p
    simp only [wfFrom, Bool.and_eq_true, decide_eq_true_eq] at hm
    obtain ⟨⟨⟨h1, h2⟩, h3⟩, h4⟩ := hm
    simp only [insertCell]
    split
    · simp only [wfFrom, Bool.and_eq_true, decide_eq_true_eq, bne_iff_ne]
      exact ⟨⟨⟨hlo, hi⟩, hb⟩, ⟨⟨by omega, h2⟩, by simpa using h3⟩, h4⟩
    · split
      · rename_i h; subst h
        simp only [wfFrom, Bool.and_eq_true, decide_eq_true_eq, bne_iff_ne]
        exact ⟨⟨⟨hlo, hi⟩, hb⟩, h4⟩
      · simp only [wfFrom, Bool.and_eq_true, decide_eq_true_eq]
        exact ⟨⟨⟨h1, h2⟩, h3⟩, ih (k + 1) (by omega) h4⟩

theorem wfFrom_eraseCell (m : Memory) (lo a : Nat) (hm : wfFrom lo m = true) : wfFrom lo (eraseCell m a) = true := by
  induction m generalizing lo with
  | nil => rfl
  | cons p rest ih =>
    obtain ⟨k, d⟩ := p
    simp only [wfFrom, Bool.and_eq_true, decide_eq_true_eq] at hm
    obtain ⟨⟨⟨h1, h2⟩, h3⟩, h4⟩ := hm
    simp only [eraseCell] at ih ⊢
    by_cases hk : k = a
    · simp only [List.filter_cons, hk, bne_self_eq_false, Bool.false_eq_true, if_false]
      exact ih lo (wfFrom_mono rest lo (k + 1) (by omega) h4)
    · simp only [List.filter_cons, bne_iff_ne, ne_eq, hk, not_false_eq_true, if_true, wfFrom, Bool.and_eq_true,
        decide_eq_true_eq]
      exact ⟨⟨⟨h1, h2⟩, by simpa using h3⟩, ih (k + 1) h4⟩

/-- A byte store keeps the canonical form. -/
theorem writeByte_wf (m : Memory) (a : Nat) (b : Byte) (hm : Memory.wf m = true) : Memory.wf (writeByte m a b) = true := by
  by_cases ha : a < Config.memSize
  · have hi : inMemory a = true := by simp [inMemory, ha]
    simp only [writeByte, hi, if_true]
    split
    · exact wfFrom_eraseCell m 0 a hm
    · rename_i hb; exact wfFrom_insertCell m 0 a b (Nat.zero_le a) ha hb hm
  · rwa [writeByte_outside m a b ha]

/-- A run of byte stores keeps the canonical form. -/
theorem writeBytes_wf (bs : List Byte) (m : Memory) (a : Nat) (hm : Memory.wf m = true) :
    Memory.wf (writeBytes m a bs) = true := by
  induction bs generalizing m a with
  | nil => exact hm
  | cons b rest ih => exact ih (writeByte m a b) (a + 1) (writeByte_wf m a b hm)

/-- Beyond the 4096 bytes a canonical memory lists nothing. -/
theorem readByte_outside (m : Memory) (lo a : Nat) (hm : wfFrom lo m = true) (h : ¬ a < Config.memSize) :
    readByte m a = resetByte a := by
  induction m generalizing lo with
  | nil => rfl
  | cons p rest ih =>
    obtain ⟨k, d⟩ := p
    simp only [wfFrom, Bool.and_eq_true, inMemory, decide_eq_true_eq] at hm
    have hk : k < Config.memSize := hm.1.1.2
    rw [readByte, if_neg (by omega)]
    exact ih (k + 1) hm.2

/-- Below the addresses it lists, a canonical memory reads as reset left it. -/
theorem readByte_below (m : Memory) (lo a : Nat) (hm : wfFrom lo m = true) (h : a < lo) : readByte m a = resetByte a := by
  induction m generalizing lo with
  | nil => rfl
  | cons p rest ih =>
    obtain ⟨k, d⟩ := p
    simp only [wfFrom, Bool.and_eq_true, decide_eq_true_eq] at hm
    rw [readByte, if_neg (by omega)]
    exact ih (k + 1) hm.2 (by omega)

theorem wfFrom_ext (m m' : Memory) (lo : Nat) (hm : wfFrom lo m = true) (hm' : wfFrom lo m' = true)
    (h : ∀ a, lo ≤ a → readByte m a = readByte m' a) : m = m' := by
  induction m generalizing m' lo with
  | nil =>
    cases m' with
    | nil => rfl
    | cons q rest' =>
      obtain ⟨k, d⟩ := q
      simp only [wfFrom, Bool.and_eq_true, decide_eq_true_eq, bne_iff_ne] at hm'
      have := h k hm'.1.1.1
      simp only [readByte, if_true] at this
      exact absurd this.symm hm'.1.2
  | cons p rest ih =>
    obtain ⟨k, d⟩ := p
    have hm0 := hm
    simp only [wfFrom, Bool.and_eq_true, decide_eq_true_eq, bne_iff_ne] at hm
    cases m' with
    | nil =>
      have := h k hm.1.1.1
      simp only [readByte, if_true] at this
      exact absurd this hm.1.2
    | cons q rest' =>
      obtain ⟨k', d'⟩ := q
      have hm0' := hm'
      simp only [wfFrom, Bool.and_eq_true, decide_eq_true_eq, bne_iff_ne] at hm'
      rcases Nat.lt_trichotomy k k' with hk | hk | hk
      · have e := h k hm.1.1.1
        have b : wfFrom k' ((k', d') :: rest') = true := by
          simp only [wfFrom, Bool.and_eq_true, decide_eq_true_eq, bne_iff_ne]; exact ⟨⟨⟨le_refl _, hm'.1.1.2⟩, hm'.1.2⟩, hm'.2⟩
        rw [readByte_below _ k' k b hk] at e
        simp only [readByte, if_true] at e
        exact absurd e hm.1.2
      · subst hk
        have e := h k hm.1.1.1
        simp only [readByte, if_true] at e
        subst e
        rw [ih rest' (k + 1) hm.2 hm'.2 (fun a ha => ?_)]
        have := h a (by omega)
        simpa only [readByte, if_neg (show ¬ k = a by omega)] using this
      · have e := h k' hm'.1.1.1
        have b : wfFrom k ((k, d) :: rest) = true := by
          simp only [wfFrom, Bool.and_eq_true, decide_eq_true_eq, bne_iff_ne]; exact ⟨⟨⟨le_refl _, hm.1.1.2⟩, hm.1.2⟩, hm.2⟩
        rw [readByte_below _ k k' b hk] at e
        simp only [readByte, if_true] at e
        exact absurd e.symm hm'.1.2

/-- Two canonical memories that read the same everywhere are the same list: equal memories are equal data. -/
theorem Memory.wf_ext (m m' : Memory) (hm : Memory.wf m = true) (hm' : Memory.wf m' = true)
    (h : ∀ a, readByte m a = readByte m' a) : m = m' := wfFrom_ext m m' 0 hm hm' (fun a _ => h a)

end Sys2Proof.Machine
end

