-- ==== Sys2Proof/Laws/Regs.lean ====
section
/-! SUPPORT. What the registers, the program counter and the display cells do: what a read gives after an update, and what an
update leaves alone. -/

namespace Sys2Proof.Machine

variable (s : State)

/-! ### General registers -/

/-- A register reads what was last written to it, and every other register is left alone (R10). -/
theorem getV_setV (x y : Reg) (b : Byte) : getV (setV s x b) y = if x = y then b else getV s y := by
  simp only [getV, setV, setRegs_v, Vector.getElem_set, BitVec.toNat_inj]

@[simp] theorem getV_setV_self (x : Reg) (b : Byte) : getV (setV s x b) x = b := by simp [getV_setV]

theorem getV_setV_ne (x y : Reg) (b : Byte) (h : x ≠ y) : getV (setV s x b) y = getV s y := by simp [getV_setV, h]

@[simp] theorem setV_i (x : Reg) (b : Byte) : (setV s x b).i = s.i := rfl
@[simp] theorem setV_pc (x : Reg) (b : Byte) : (setV s x b).pc = s.pc := rfl
@[simp] theorem setV_stack (x : Reg) (b : Byte) : (setV s x b).stack = s.stack := rfl
@[simp] theorem setV_sp (x : Reg) (b : Byte) : (setV s x b).sp = s.sp := rfl
@[simp] theorem setV_dt (x : Reg) (b : Byte) : (setV s x b).dt = s.dt := rfl
@[simp] theorem setV_st (x : Reg) (b : Byte) : (setV s x b).st = s.st := rfl
@[simp] theorem setV_mem (x : Reg) (b : Byte) : (setV s x b).mem = s.mem := rfl
@[simp] theorem setV_disp (x : Reg) (b : Byte) : (setV s x b).disp = s.disp := rfl
@[simp] theorem setV_keys (x : Reg) (b : Byte) : (setV s x b).keys = s.keys := rfl
@[simp] theorem setV_redraw (x : Reg) (b : Byte) : (setV s x b).redraw = s.redraw := rfl
@[simp] theorem setV_waitkey (x : Reg) (b : Byte) : (setV s x b).waitkey = s.waitkey := rfl
@[simp] theorem setV_fault (x : Reg) (b : Byte) : (setV s x b).fault = s.fault := rfl
@[simp] theorem setV_rndCount (x : Reg) (b : Byte) : (setV s x b).rndCount = s.rndCount := rfl
@[simp] theorem setV_schedule (x : Reg) (b : Byte) : (setV s x b).schedule = s.schedule := rfl

/-! A register read looks at the register file only. -/
@[simp] theorem getV_setI (w : Word) (r : Reg) : getV (setI s w) r = getV s r := rfl
@[simp] theorem getV_setPc (w : Word) (r : Reg) : getV (setPc s w) r = getV s r := rfl
@[simp] theorem getV_setStack (k : Vector Word 16) (r : Reg) : getV (setStack s k) r = getV s r := rfl
@[simp] theorem getV_setSp (n : Fin 17) (r : Reg) : getV (setSp s n) r = getV s r := rfl
@[simp] theorem getV_setDt (b : Byte) (r : Reg) : getV (setDt s b) r = getV s r := rfl
@[simp] theorem getV_setSt (b : Byte) (r : Reg) : getV (setSt s b) r = getV s r := rfl
@[simp] theorem getV_setMem (m : Memory) (r : Reg) : getV (setMem s m) r = getV s r := rfl
@[simp] theorem getV_setDisp (d : Vector (BitVec 64) 32) (r : Reg) : getV (setDisp s d) r = getV s r := rfl
@[simp] theorem getV_setKeys (k : BitVec 16) (r : Reg) : getV (setKeys s k) r = getV s r := rfl
@[simp] theorem getV_setRedraw (b : Bool) (r : Reg) : getV (setRedraw s b) r = getV s r := rfl
@[simp] theorem getV_setWaitkey (b : Bool) (r : Reg) : getV (setWaitkey s b) r = getV s r := rfl
@[simp] theorem getV_setFault (f : Option Fatal) (r : Reg) : getV (setFault s f) r = getV s r := rfl
@[simp] theorem getV_setRndCount (n : Nat) (r : Reg) : getV (setRndCount s n) r = getV s r := rfl
@[simp] theorem getV_setSchedule (l : List HostEvent) (r : Reg) : getV (setSchedule s l) r = getV s r := rfl

/-- Two register files with the same registers are the same. -/
theorem regs_ext (s t : State) (h : ∀ r : Reg, getV s r = getV t r) : s.v = t.v := by
  apply Vector.ext
  intro k hk
  simpa [getV, Nat.mod_eq_of_lt hk] using h (BitVec.ofNat 4 k)

/-! ### Program counter -/

@[simp] theorem skipNext_v : (skipNext s).v = s.v := rfl
@[simp] theorem skipNext_i : (skipNext s).i = s.i := rfl
@[simp] theorem skipNext_pc : (skipNext s).pc = s.pc + 2#16 := rfl
@[simp] theorem skipNext_stack : (skipNext s).stack = s.stack := rfl
@[simp] theorem skipNext_sp : (skipNext s).sp = s.sp := rfl
@[simp] theorem skipNext_dt : (skipNext s).dt = s.dt := rfl
@[simp] theorem skipNext_st : (skipNext s).st = s.st := rfl
@[simp] theorem skipNext_mem : (skipNext s).mem = s.mem := rfl
@[simp] theorem skipNext_disp : (skipNext s).disp = s.disp := rfl
@[simp] theorem skipNext_keys : (skipNext s).keys = s.keys := rfl
@[simp] theorem skipNext_redraw : (skipNext s).redraw = s.redraw := rfl
@[simp] theorem skipNext_waitkey : (skipNext s).waitkey = s.waitkey := rfl
@[simp] theorem skipNext_fault : (skipNext s).fault = s.fault := rfl
@[simp] theorem skipNext_rndCount : (skipNext s).rndCount = s.rndCount := rfl
@[simp] theorem skipNext_schedule : (skipNext s).schedule = s.schedule := rfl
@[simp] theorem afterFetch_v : (afterFetch s).v = s.v := rfl
@[simp] theorem afterFetch_i : (afterFetch s).i = s.i := rfl
@[simp] theorem afterFetch_pc : (afterFetch s).pc = s.pc + 2#16 := rfl
@[simp] theorem afterFetch_stack : (afterFetch s).stack = s.stack := rfl
@[simp] theorem afterFetch_sp : (afterFetch s).sp = s.sp := rfl
@[simp] theorem afterFetch_dt : (afterFetch s).dt = s.dt := rfl
@[simp] theorem afterFetch_st : (afterFetch s).st = s.st := rfl
@[simp] theorem afterFetch_mem : (afterFetch s).mem = s.mem := rfl
@[simp] theorem afterFetch_disp : (afterFetch s).disp = s.disp := rfl
@[simp] theorem afterFetch_keys : (afterFetch s).keys = s.keys := rfl
@[simp] theorem afterFetch_redraw : (afterFetch s).redraw = s.redraw := rfl
@[simp] theorem afterFetch_waitkey : (afterFetch s).waitkey = false := rfl
@[simp] theorem afterFetch_fault : (afterFetch s).fault = s.fault := rfl
@[simp] theorem afterFetch_rndCount : (afterFetch s).rndCount = s.rndCount := rfl
@[simp] theorem afterFetch_schedule : (afterFetch s).schedule = s.schedule := rfl
@[simp] theorem getV_skipNext (r : Reg) : getV (skipNext s) r = getV s r := rfl
@[simp] theorem getV_afterFetch (r : Reg) : getV (afterFetch s) r = getV s r := rfl

/-! ### Display cells -/

@[simp] theorem cell_setI (w : Word) (px py : Nat) : cell (setI s w) px py = cell s px py := rfl
@[simp] theorem cell_setPc (w : Word) (px py : Nat) : cell (setPc s w) px py = cell s px py := rfl
@[simp] theorem cell_setStack (k : Vector Word 16) (px py : Nat) : cell (setStack s k) px py = cell s px py := rfl
@[simp] theorem cell_setSp (n : Fin 17) (px py : Nat) : cell (setSp s n) px py = cell s px py := rfl
@[simp] theorem cell_setDt (b : Byte) (px py : Nat) : cell (setDt s b) px py = cell s px py := rfl
@[simp] theorem cell_setSt (b : Byte) (px py : Nat) : cell (setSt s b) px py = cell s px py := rfl
@[simp] theorem cell_setMem (m : Memory) (px py : Nat) : cell (setMem s m) px py = cell s px py := rfl
@[simp] theorem cell_setKeys (k : BitVec 16) (px py : Nat) : cell (setKeys s k) px py = cell s px py := rfl
@[simp] theorem cell_setRedraw (b : Bool) (px py : Nat) : cell (setRedraw s b) px py = cell s px py := rfl
@[simp] theorem cell_setWaitkey (b : Bool) (px py : Nat) : cell (setWaitkey s b) px py = cell s px py := rfl
@[simp] theorem cell_setFault (f : Option Fatal) (px py : Nat) : cell (setFault s f) px py = cell s px py := rfl
@[simp] theorem cell_setRndCount (n : Nat) (px py : Nat) : cell (setRndCount s n) px py = cell s px py := rfl
@[simp] theorem cell_setSchedule (l : List HostEvent) (px py : Nat) : cell (setSchedule s l) px py = cell s px py := rfl
@[simp] theorem cell_setV (x : Reg) (b : Byte) (px py : Nat) : cell (setV s x b) px py = cell s px py := rfl

@[simp] theorem toggleCell_v (px py : Nat) : (toggleCell s px py).v = s.v := by unfold toggleCell; split <;> rfl
@[simp] theorem toggleCell_i (px py : Nat) : (toggleCell s px py).i = s.i := by unfold toggleCell; split <;> rfl
@[simp] theorem toggleCell_pc (px py : Nat) : (toggleCell s px py).pc = s.pc := by unfold toggleCell; split <;> rfl
@[simp] theorem toggleCell_stack (px py : Nat) : (toggleCell s px py).stack = s.stack := by unfold toggleCell; split <;> rfl
@[simp] theorem toggleCell_sp (px py : Nat) : (toggleCell s px py).sp = s.sp := by unfold toggleCell; split <;> rfl
@[simp] theorem toggleCell_dt (px py : Nat) : (toggleCell s px py).dt = s.dt := by unfold toggleCell; split <;> rfl
@[simp] theorem toggleCell_st (px py : Nat) : (toggleCell s px py).st = s.st := by unfold toggleCell; split <;> rfl
@[simp] theorem toggleCell_mem (px py : Nat) : (toggleCell s px py).mem = s.mem := by unfold toggleCell; split <;> rfl
@[simp] theorem toggleCell_keys (px py : Nat) : (toggleCell s px py).keys = s.keys := by unfold toggleCell; split <;> rfl
@[simp] theorem toggleCell_redraw (px py : Nat) : (toggleCell s px py).redraw = s.redraw := by unfold toggleCell; split <;> rfl
@[simp] theorem toggleCell_waitkey (px py : Nat) : (toggleCell s px py).waitkey = s.waitkey := by unfold toggleCell; split <;> rfl
@[simp] theorem toggleCell_fault (px py : Nat) : (toggleCell s px py).fault = s.fault := by unfold toggleCell; split <;> rfl
@[simp] theorem toggleCell_rndCount (px py : Nat) : (toggleCell s px py).rndCount = s.rndCount := by unfold toggleCell; split <;> rfl
@[simp] theorem toggleCell_schedule (px py : Nat) : (toggleCell s px py).schedule = s.schedule := by unfold toggleCell; split <;> rfl
@[simp] theorem getV_toggleCell (px py : Nat) (r : Reg) : getV (toggleCell s px py) r = getV s r := by
  unfold toggleCell; split <;> rfl

/-- A toggle flips its cell and no other (R151). -/
theorem cell_toggleCell (px py qx qy : Nat) (hx : px < Config.dispW) (hy : py < Config.dispH) :
    cell (toggleCell s px py) qx qy = (cell s qx qy ^^ decide (qx = px ∧ qy = py)) := by
  have hx' : px < 64 := hx
  have hy' : py < 32 := hy
  unfold toggleCell cell
  rw [dif_pos hy]
  by_cases hq : qy < 32
  · simp only [dif_pos hq, setDisp_disp, Vector.getElem_set]
    by_cases he : py = qy
    · subst he
      by_cases h2 : px = qx
      · subst h2; simp [hx']
      · have : ¬ qx = px := fun h => h2 h.symm
        simp [h2, this, BitVec.getLsbD_twoPow]
    · have : ¬ qy = py := fun h => he h.symm
      simp [he, this]
  · have : qy ≠ py := fun h => hq (h ▸ hy')
    simp [dif_neg hq, this]

end Sys2Proof.Machine
end

