-- ==== Sys2Proof/Laws/Ops.lean ====
section
/-! SUPPORT. One lemma for each shared operation, saying once everything it can do: raising a condition, the range check, the
stack, skips, the flag-writing shape, bulk transfers, drawing, keys, timers, and the host events. -/

namespace Sys2Proof.Machine

variable (s : State)

/-! ### Conditions and the range check -/

theorem raise_eq (c : Fatal) : raise c s = .next { s with fault := some c } := rfl

/-- The range check passes exactly when no byte, or only bytes up to 0xFFF, are accessed (R45). -/
theorem outOfRange_eq_none (b : Word) (n : Nat) : outOfRange b n = none ↔ n = 0 ∨ b.toNat + n ≤ 0x1000 := by
  unfold outOfRange
  split <;> simp <;> omega

theorem withData_inRange (n : Nat) (f : State → State) (h : n = 0 ∨ s.i.toNat + n ≤ 0x1000) :
    withData s n f = .next (f s) := by
  simp [withData, (outOfRange_eq_none s.i n).2 h]

theorem withData_outOfRange (n : Nat) (f : State → State) (h0 : n ≠ 0) (h : s.i.toNat + n > 0x1000) :
    withData s n f = .next { s with fault := some .memoryRange } := by
  have : outOfRange s.i n = some (max s.i.toNat 0x1000) := by
    unfold outOfRange; rw [if_pos (by omega)]
  simp [withData, this, raise_eq]

/-- A data access either happens whole or raises `MemoryRange` and nothing else (R45, R203). -/
theorem withData_cases (n : Nat) (f : State → State) :
    withData s n f = .next (f s) ∨ withData s n f = .next { s with fault := some .memoryRange } := by
  unfold withData
  split
  · exact .inr rfl
  · exact .inl rfl

/-! ### The stack -/

theorem pushAndGo_free (target : Word) (h : s.sp.val < 16) :
    pushAndGo s target = .next { s with pc := target, sp := ⟨s.sp.val + 1, by omega⟩, stack := s.stack.set s.sp.val s.pc h } := by
  unfold pushAndGo; rw [dif_pos h]; rfl

theorem pushAndGo_full (target : Word) (h : s.sp.val = 16) :
    pushAndGo s target = .next { s with fault := some .stackOverflow } := by
  have : ¬ s.sp.val < Config.stackDepth := by simp [h]
  unfold pushAndGo; rw [dif_neg this]; rfl

theorem popAndGo_live (h : 0 < s.sp.val) :
    popAndGo s = .next { s with pc := s.stack[s.sp.val - 1]'(by omega), sp := ⟨s.sp.val - 1, by omega⟩ } := by
  unfold popAndGo; rw [dif_pos h]; rfl

theorem popAndGo_empty (h : s.sp.val = 0) : popAndGo s = .next { s with fault := some .stackUnderflow } := by
  have : ¬ 0 < s.sp.val := by omega
  unfold popAndGo; rw [dif_neg this]; rfl

/-! ### Skips -/

theorem skipIf_eq (b : Bool) : skipIf b s = .next { s with pc := if b then s.pc + 2#16 else s.pc } := rfl

/-! ### Flags -/

/-- The flag-writing shape: the flag first, the result second from the registers as they then stand (R120). -/
theorem getV_flagThenResult (x y r : Reg) (flag result : Byte → Byte → Byte) :
    getV (flagThenResult x y flag result s) r =
      if x = r then
        result (if flagReg = x then flag (getV s x) (getV s y) else getV s x)
          (if flagReg = y then flag (getV s x) (getV s y) else getV s y)
      else if flagReg = r then flag (getV s x) (getV s y) else getV s r := by
  simp only [flagThenResult, getV_setV]

theorem flagThenResult_eq (x y : Reg) (flag result : Byte → Byte → Byte) :
    flagThenResult x y flag result s = { s with v := (flagThenResult x y flag result s).v } := rfl

/-! ### Bulk transfers -/

theorem bulkValues_length (n : Nat) : (bulkValues s n).length = n := by simp [bulkValues]

/-- A bulk load changes registers only (R145). -/
theorem bulkLoad_eq (ks : List Nat) : bulkLoad s ks = { s with v := (bulkLoad s ks).v } := by
  induction ks generalizing s with
  | nil => rfl
  | cons k rest ih =>
    have := ih (setV s (regAt k) (readByte s.mem (s.i.toNat + k)))
    simpa [bulkLoad] using this

/-- A bulk load of registers 0 to `n - 1` gives each its byte and leaves the others alone (R145). -/
theorem getV_bulkLoad (n : Nat) (hn : n ≤ 16) (r : Reg) :
    getV (bulkLoad s (List.range n)) r = if r.toNat < n then readByte s.mem (s.i.toNat + r.toNat) else getV s r := by
  induction n with
  | zero => simp [bulkLoad]
  | succ n ih =>
    have hstep : bulkLoad s (List.range (n + 1)) = setV (bulkLoad s (List.range n)) (regAt n)
        (readByte (bulkLoad s (List.range n)).mem ((bulkLoad s (List.range n)).i.toNat + n)) := by
      simp [bulkLoad, List.range_succ]
    have hm : (bulkLoad s (List.range n)).mem = s.mem := by rw [bulkLoad_eq]
    have hi : (bulkLoad s (List.range n)).i = s.i := by rw [bulkLoad_eq]
    rw [hstep, getV_setV, ih (by omega), hm, hi]
    have hreg : regAt n = r ↔ r.toNat = n := by
      rw [← BitVec.toNat_inj]
      simp only [regAt, BitVec.toNat_ofNat]
      have := r.isLt
      omega
    by_cases h : r.toNat = n
    · simp [hreg, h]
    · have h1 : r.toNat < n + 1 ↔ r.toNat < n := by omega
      simp [hreg, h, h1]

/-! ### Drawing -/

/-- Drawing changes `V[15]` and the display only (R151). -/
theorem drawPixel_eq (x y : Reg) (r c : Nat) :
    drawPixel x y r c s = { s with v := (drawPixel x y r c s).v, disp := (drawPixel x y r c s).disp } := by
  unfold drawPixel toggleCell
  split <;> split <;> rfl

theorem drawPixels_eq (x y : Reg) (ps : List (Nat × Nat)) :
    drawPixels x y ps s = { s with v := (drawPixels x y ps s).v, disp := (drawPixels x y ps s).disp } := by
  induction ps generalizing s with
  | nil => rfl
  | cons p rest ih =>
    have h1 : drawPixels x y (p :: rest) s = drawPixels x y rest (drawPixel x y p.1 p.2 s) := rfl
    rw [h1, ih, drawPixel_eq]

theorem getV_drawPixel (x y r : Reg) (yl xl : Nat) :
    getV (drawPixel x y yl xl s) r =
      if flagReg = r ∧ cell s (pixelCol (getV s x) xl) (pixelRow (getV s y) yl) = true then 1#8 else getV s r := by
  unfold drawPixel
  rw [getV_toggleCell]
  split
  · rename_i h; rw [getV_setV]; simp [h]
  · rename_i h; simp [h]

theorem cell_drawPixel (x y : Reg) (yl xl px py : Nat) :
    cell (drawPixel x y yl xl s) px py =
      (cell s px py ^^ decide (px = pixelCol (getV s x) xl ∧ py = pixelRow (getV s y) yl)) := by
  have hc : pixelCol (getV s x) xl < Config.dispW := Nat.mod_lt _ (by decide)
  have hr : pixelRow (getV s y) yl < Config.dispH := Nat.mod_lt _ (by decide)
  unfold drawPixel
  rw [cell_toggleCell _ _ _ _ _ hc hr]
  split <;> simp

/-- Drawing leaves every register but `V[15]` alone. -/
theorem getV_drawPixels_ne (x y r : Reg) (ps : List (Nat × Nat)) (h : r ≠ flagReg) :
    getV (drawPixels x y ps s) r = getV s r := by
  induction ps generalizing s with
  | nil => rfl
  | cons p rest ih =>
    have h1 : drawPixels x y (p :: rest) s = drawPixels x y rest (drawPixel x y p.1 p.2 s) := rfl
    rw [h1, ih, getV_drawPixel]
    simp [h.symm]

/-! ### Keys -/

/-- The key found is set and no lower one is (R161). -/
theorem lowestKey_eq_some (k : Nat) :
    lowestKey s = some k ↔ k < 16 ∧ s.keys.getLsbD k = true ∧ ∀ j, j < k → s.keys.getLsbD j = false := by
  unfold lowestKey
  rw [List.find?_range_eq_some]
  simp only [List.mem_range, Bool.not_eq_true', Bool.eq_false_iff]
  tauto

theorem lowestKey_eq_none : lowestKey s = none ↔ s.keys = 0#16 := by
  unfold lowestKey
  rw [List.find?_eq_none]
  constructor
  · intro h
    apply BitVec.eq_of_getLsbD_eq
    intro k hk
    simpa using h k (by simpa using hk)
  · intro h k _; simp [h]

/-! ### Timers -/

theorem countDown_toNat (b : Byte) : (countDown b).toNat = b.toNat - 1 := by
  unfold countDown
  split
  · rw [BitVec.toNat_sub]; have := b.isLt; simp; omega
  · omega

/-! ### Events -/

/-- A host event but `Step` answers a next state; `Step` is the step cycle (R220). -/
theorem applyEvent_cases (e : HostEvent) :
    (e = .step ∧ applyEvent e s = coreStep s) ∨ (e ≠ .step ∧ ∃ t, applyEvent e s = .next t) := by
  cases e <;> simp [applyEvent]

/-- What a `Step` can do (R60, R206): nothing when halted, `MemoryRange` when the fetch is out of range, only the fetch when the
word is unmatched, and else what the instruction does. -/
theorem coreStep_cases :
    (s.fault.isSome = true ∧ coreStep s = .next s) ∨
    (s.fault = none ∧ s.pc.toNat > 0xFFE ∧ coreStep s = .next { s with fault := some .memoryRange }) ∨
    (s.fault = none ∧ s.pc.toNat ≤ 0xFFE ∧ decodeWord (fetchWord s) = none ∧ coreStep s = .next (afterFetch s)) ∨
    (s.fault = none ∧ s.pc.toNat ≤ 0xFFE ∧ ∃ i, decodeWord (fetchWord s) = some i ∧
      coreStep s = exec i (afterFetch s)) := by
  unfold coreStep
  cases hf : s.fault with
  | some c => exact .inl ⟨rfl, rfl⟩
  | none =>
    right
    by_cases hr : s.pc.toNat ≤ 0xFFE
    · right
      have : fetchInRange s = true := by simp [fetchInRange, hr]
      cases hd : decodeWord (fetchWord s) with
      | none => exact .inl ⟨rfl, hr, rfl, by simp [this]⟩
      | some i => exact .inr ⟨rfl, hr, i, rfl, by simp [this]⟩
    · left
      have : fetchInRange s = false := by simp [fetchInRange, hr]
      exact ⟨rfl, by omega, by simp [this, raise_eq]⟩

end Sys2Proof.Machine
end

