-- ==== Sys2Proof/Laws/Data.lean ====
section
/-! SUPPORT. The four instructions that access data memory, each in its two cases: all addresses in range, or `MemoryRange` and
nothing else (20_memory.md R45). -/

namespace Sys2Proof.Machine

variable (s : State)

/-- Fx33 in range (R143). -/
theorem execLdB_inRange (x : Reg) (h : s.i.toNat + 2 ≤ 0xFFF) :
    execLdB x s = .next (setMem s (writeBytes s.mem s.i.toNat (digits (getV s x)))) := by
  unfold execLdB; rw [withData_inRange s 3 _ (by omega)]

/-- Fx33 out of range (R143). -/
theorem execLdB_outOfRange (x : Reg) (h : s.i.toNat + 2 > 0xFFF) :
    execLdB x s = .next { s with fault := some .memoryRange } := by
  unfold execLdB; rw [withData_outOfRange s 3 _ (by omega) (by omega)]

/-- Fx55 in range (R144). -/
theorem execLdMemVx_inRange (x : Reg) (h : s.i.toNat + x.toNat ≤ 0xFFF) :
    execLdMemVx x s = .next (setMem s (writeBytes s.mem s.i.toNat (bulkValues s (bulkCount x)))) := by
  unfold execLdMemVx; rw [withData_inRange s (bulkCount x) _ (by unfold bulkCount; omega)]

/-- Fx55 out of range (R144). -/
theorem execLdMemVx_outOfRange (x : Reg) (h : s.i.toNat + x.toNat > 0xFFF) :
    execLdMemVx x s = .next { s with fault := some .memoryRange } := by
  unfold execLdMemVx
  rw [withData_outOfRange s (bulkCount x) _ (by unfold bulkCount; omega) (by unfold bulkCount; omega)]

/-- Fx65 in range (R145). -/
theorem execLdVxMem_inRange (x : Reg) (h : s.i.toNat + x.toNat ≤ 0xFFF) :
    execLdVxMem x s = .next (bulkLoad s (List.range (bulkCount x))) := by
  unfold execLdVxMem; rw [withData_inRange s (bulkCount x) _ (by unfold bulkCount; omega)]

/-- Fx65 out of range (R145). -/
theorem execLdVxMem_outOfRange (x : Reg) (h : s.i.toNat + x.toNat > 0xFFF) :
    execLdVxMem x s = .next { s with fault := some .memoryRange } := by
  unfold execLdVxMem
  rw [withData_outOfRange s (bulkCount x) _ (by unfold bulkCount; omega) (by unfold bulkCount; omega)]

/-- Dxyn in range (R151). -/
theorem execDrw_inRange (x y : Reg) (n : Nibble) (h : n = 0#4 ∨ s.i.toNat + n.toNat ≤ 0x1000) :
    execDrw x y n s = .next (setRedraw (drawPixels x y (spritePixels (readBytes s.mem s.i.toNat n.toNat))
      (setV s flagReg 0#8)) true) := by
  have h' : n.toNat = 0 ∨ s.i.toNat + n.toNat ≤ 0x1000 := by
    rcases h with h | h
    · exact .inl (by simp [h])
    · exact .inr h
  unfold execDrw; rw [withData_inRange s n.toNat _ h']

/-- Dxyn out of range (R151). -/
theorem execDrw_outOfRange (x y : Reg) (n : Nibble) (h0 : n ≠ 0#4) (h : s.i.toNat + n.toNat > 0x1000) :
    execDrw x y n s = .next { s with fault := some .memoryRange } := by
  have h' : n.toNat ≠ 0 := fun e => h0 (BitVec.eq_of_toNat_eq (by simpa using e))
  unfold execDrw; rw [withData_outOfRange s n.toNat _ h' h]

end Sys2Proof.Machine
end

