-- ==== Sys2Proof/Laws/Encoding.lean ====
section
/-! SUPPORT. Words and their fields as numbers: the fields of a word, the words of a format, and each field of a format's word
(30_encoding.md R62, R64). -/

namespace Sys2Proof

/-- The number two bit strings make side by side. -/
theorem toNat_append_eq {m n : Nat} (a : BitVec m) (b : BitVec n) : (a ++ b).toNat = a.toNat * 2 ^ n + b.toNat := by
  rw [BitVec.toNat_append, ← Nat.shiftLeft_add_eq_or_of_lt (BitVec.isLt _), Nat.shiftLeft_eq]

/-- The number a slice of a bit string is. -/
theorem toNat_slice_eq {w : Nat} (a : BitVec w) (i n : Nat) : (a.extractLsb' i n).toNat = a.toNat / 2 ^ i % 2 ^ n := by
  simp [BitVec.extractLsb'_toNat, Nat.shiftRight_eq_div_pow]

/-! ### Fields -/

theorem fieldFamily_toNat (op : Word) : (fieldFamily op).toNat = op.toNat / 4096 % 16 := toNat_slice_eq _ _ _
theorem fieldX_toNat (op : Word) : (fieldX op).toNat = op.toNat / 256 % 16 := toNat_slice_eq _ _ _
theorem fieldY_toNat (op : Word) : (fieldY op).toNat = op.toNat / 16 % 16 := toNat_slice_eq _ _ _
theorem fieldN_toNat (op : Word) : (fieldN op).toNat = op.toNat % 16 := by rw [fieldN, toNat_slice_eq]; simp
theorem fieldKk_toNat (op : Word) : (fieldKk op).toNat = op.toNat % 256 := by rw [fieldKk, toNat_slice_eq]; simp
theorem fieldNnn_toNat (op : Word) : (fieldNnn op).toNat = op.toNat % 4096 := by rw [fieldNnn, toNat_slice_eq]; simp

/-! ### Formats -/

theorem formatA_toNat (f : Nibble) (a : Addr12) : (formatA f a).toNat = f.toNat * 4096 + a.toNat := toNat_append_eq _ _

theorem formatXK_toNat (f : Nibble) (x : Reg) (k : Byte) :
    (formatXK f x k).toNat = f.toNat * 4096 + x.toNat * 256 + k.toNat := by
  show ((f ++ x) ++ k).toNat = _
  rw [toNat_append_eq, toNat_append_eq]; omega

theorem formatXYN_toNat (f : Nibble) (x y : Reg) (n : Nibble) :
    (formatXYN f x y n).toNat = f.toNat * 4096 + x.toNat * 256 + y.toNat * 16 + n.toNat := by
  show (((f ++ x) ++ y) ++ n).toNat = _
  rw [toNat_append_eq, toNat_append_eq, toNat_append_eq]; omega

/-! ### The fields of a format's word -/

@[simp] theorem fieldFamily_formatA (f : Nibble) (a : Addr12) : fieldFamily (formatA f a) = f :=
  BitVec.eq_of_toNat_eq (by rw [fieldFamily_toNat, formatA_toNat]; omega)

@[simp] theorem fieldNnn_formatA (f : Nibble) (a : Addr12) : fieldNnn (formatA f a) = a :=
  BitVec.eq_of_toNat_eq (by rw [fieldNnn_toNat, formatA_toNat]; omega)

@[simp] theorem fieldFamily_formatXK (f : Nibble) (x : Reg) (k : Byte) : fieldFamily (formatXK f x k) = f :=
  BitVec.eq_of_toNat_eq (by rw [fieldFamily_toNat, formatXK_toNat]; omega)

@[simp] theorem fieldX_formatXK (f : Nibble) (x : Reg) (k : Byte) : fieldX (formatXK f x k) = x :=
  BitVec.eq_of_toNat_eq (by rw [fieldX_toNat, formatXK_toNat]; omega)

@[simp] theorem fieldKk_formatXK (f : Nibble) (x : Reg) (k : Byte) : fieldKk (formatXK f x k) = k :=
  BitVec.eq_of_toNat_eq (by rw [fieldKk_toNat, formatXK_toNat]; omega)

@[simp] theorem fieldFamily_formatXYN (f : Nibble) (x y : Reg) (n : Nibble) : fieldFamily (formatXYN f x y n) = f :=
  BitVec.eq_of_toNat_eq (by rw [fieldFamily_toNat, formatXYN_toNat]; omega)

@[simp] theorem fieldX_formatXYN (f : Nibble) (x y : Reg) (n : Nibble) : fieldX (formatXYN f x y n) = x :=
  BitVec.eq_of_toNat_eq (by rw [fieldX_toNat, formatXYN_toNat]; omega)

@[simp] theorem fieldY_formatXYN (f : Nibble) (x y : Reg) (n : Nibble) : fieldY (formatXYN f x y n) = y :=
  BitVec.eq_of_toNat_eq (by rw [fieldY_toNat, formatXYN_toNat]; omega)

@[simp] theorem fieldN_formatXYN (f : Nibble) (x y : Reg) (n : Nibble) : fieldN (formatXYN f x y n) = n :=
  BitVec.eq_of_toNat_eq (by rw [fieldN_toNat, formatXYN_toNat]; omega)

/-! ### Bytes of a word -/

/-- A word's two bytes make the word (20_memory.md R42). -/
@[simp] theorem wordOfBytes_highByte_lowByte (op : Word) : wordOfBytes (highByte op) (lowByte op) = op := by
  apply BitVec.eq_of_toNat_eq
  rw [wordOfBytes]
  erw [toNat_append_eq]
  rw [highByte, lowByte, toNat_slice_eq, toNat_slice_eq]; omega

end Sys2Proof
end

