-- ==== Sys2Proof/Laws/PerInstr.lean ====
section
/-! SUPPORT. Statements about every instruction as syntax, one lemma per constructor. Family `EncodeMatches`: the word of an
instruction matches the mask and match of its own row of the opcode table (30_encoding.md R65). -/

namespace Sys2Proof.Laws

/-- Format A words under the mask of their family (R64). -/
theorem formatA_masked (f : Nibble) (nnn : Addr12) : formatA f nnn &&& 0xF000#16 = f ++ 0#12 := by
  have h : (0xF000#16 : Word) = (0xF#4 ++ 0#12 : BitVec (4 + 12)) := by decide
  have h1 : f &&& 0xF#4 = f := BitVec.and_allOnes
  rw [formatA, h, BitVec.and_append, h1, BitVec.and_zero]

/-- Formats XK and X: the family alone is left by the mask of the wide rows (R64). -/
theorem formatXK_family (f : Nibble) (x : Reg) (kk : Byte) : formatXK f x kk &&& 0xF000#16 = f ++ 0#4 ++ 0#8 := by
  have h : (0xF000#16 : Word) = (0xF#4 ++ 0#4 ++ 0#8 : BitVec (4 + 4 + 8)) := by decide
  have h1 : f &&& 0xF#4 = f := BitVec.and_allOnes
  rw [formatXK, h, BitVec.and_append, BitVec.and_append, h1, BitVec.and_zero, BitVec.and_zero]

/-- Format X: the family and the selector byte are left (R64). -/
theorem formatXK_selector (f : Nibble) (x : Reg) (kk : Byte) : formatXK f x kk &&& 0xF0FF#16 = f ++ 0#4 ++ kk := by
  have h : (0xF0FF#16 : Word) = (0xF#4 ++ 0#4 ++ 0xFF#8 : BitVec (4 + 4 + 8)) := by decide
  have h1 : f &&& 0xF#4 = f := BitVec.and_allOnes
  have h2 : kk &&& 0xFF#8 = kk := BitVec.and_allOnes
  rw [formatXK, h, BitVec.and_append, BitVec.and_append, h1, h2, BitVec.and_zero]

/-- Format XY: the family and the selector nibble are left (R64). -/
theorem formatXYN_selector (f : Nibble) (x y : Reg) (n : Nibble) : formatXYN f x y n &&& 0xF00F#16 = f ++ 0#4 ++ 0#4 ++ n := by
  have h : (0xF00F#16 : Word) = (0xF#4 ++ 0#4 ++ 0#4 ++ 0xF#4 : BitVec (4 + 4 + 4 + 4)) := by decide
  have h1 : f &&& 0xF#4 = f := BitVec.and_allOnes
  have h2 : n &&& 0xF#4 = n := BitVec.and_allOnes
  rw [formatXYN, h, BitVec.and_append, BitVec.and_append, BitVec.and_append, h1, h2, BitVec.and_zero,
    BitVec.and_zero]

/-- Format XYN: the family alone is left (R64). -/
theorem formatXYN_family (f : Nibble) (x y : Reg) (n : Nibble) :
    formatXYN f x y n &&& 0xF000#16 = f ++ 0#4 ++ 0#4 ++ 0#4 := by
  have h : (0xF000#16 : Word) = (0xF#4 ++ 0#4 ++ 0#4 ++ 0#4 : BitVec (4 + 4 + 4 + 4)) := by decide
  have h1 : f &&& 0xF#4 = f := BitVec.and_allOnes
  rw [formatXYN, h, BitVec.and_append, BitVec.and_append, BitVec.and_append, h1, BitVec.and_zero,
    BitVec.and_zero, BitVec.and_zero]

/-- The word of an instruction matches its own row. -/
def EncodeMatches.Statement (i : Instr) : Prop := encode i &&& (rowOf i).2 = (rowOf i).1

theorem EncodeMatches.cls : EncodeMatches.Statement .cls := rfl
theorem EncodeMatches.ret : EncodeMatches.Statement .ret := rfl
theorem EncodeMatches.jp (nnn : Addr12) : EncodeMatches.Statement (.jp nnn) := formatA_masked _ nnn
theorem EncodeMatches.call (nnn : Addr12) : EncodeMatches.Statement (.call nnn) := formatA_masked _ nnn
theorem EncodeMatches.seKk (x : Reg) (kk : Byte) : EncodeMatches.Statement (.seKk x kk) := formatXK_family _ x kk
theorem EncodeMatches.sneKk (x : Reg) (kk : Byte) : EncodeMatches.Statement (.sneKk x kk) := formatXK_family _ x kk
theorem EncodeMatches.seVy (x y : Reg) : EncodeMatches.Statement (.seVy x y) := formatXYN_selector _ x y _
theorem EncodeMatches.ldKk (x : Reg) (kk : Byte) : EncodeMatches.Statement (.ldKk x kk) := formatXK_family _ x kk
theorem EncodeMatches.addKk (x : Reg) (kk : Byte) : EncodeMatches.Statement (.addKk x kk) := formatXK_family _ x kk
theorem EncodeMatches.ldVy (x y : Reg) : EncodeMatches.Statement (.ldVy x y) := formatXYN_selector _ x y _
theorem EncodeMatches.orVy (x y : Reg) : EncodeMatches.Statement (.orVy x y) := formatXYN_selector _ x y _
theorem EncodeMatches.andVy (x y : Reg) : EncodeMatches.Statement (.andVy x y) := formatXYN_selector _ x y _
theorem EncodeMatches.xorVy (x y : Reg) : EncodeMatches.Statement (.xorVy x y) := formatXYN_selector _ x y _
theorem EncodeMatches.addVy (x y : Reg) : EncodeMatches.Statement (.addVy x y) := formatXYN_selector _ x y _
theorem EncodeMatches.subVy (x y : Reg) : EncodeMatches.Statement (.subVy x y) := formatXYN_selector _ x y _
theorem EncodeMatches.shrVy (x y : Reg) : EncodeMatches.Statement (.shrVy x y) := formatXYN_selector _ x y _
theorem EncodeMatches.subnVy (x y : Reg) : EncodeMatches.Statement (.subnVy x y) := formatXYN_selector _ x y _
theorem EncodeMatches.shlVy (x y : Reg) : EncodeMatches.Statement (.shlVy x y) := formatXYN_selector _ x y _
theorem EncodeMatches.sneVy (x y : Reg) : EncodeMatches.Statement (.sneVy x y) := formatXYN_selector _ x y _
theorem EncodeMatches.ldI (nnn : Addr12) : EncodeMatches.Statement (.ldI nnn) := formatA_masked _ nnn
theorem EncodeMatches.jpV0 (nnn : Addr12) : EncodeMatches.Statement (.jpV0 nnn) := formatA_masked _ nnn
theorem EncodeMatches.rnd (x : Reg) (kk : Byte) : EncodeMatches.Statement (.rnd x kk) := formatXK_family _ x kk
theorem EncodeMatches.drw (x y : Reg) (n : Nibble) : EncodeMatches.Statement (.drw x y n) := formatXYN_family _ x y n
theorem EncodeMatches.skp (x : Reg) : EncodeMatches.Statement (.skp x) := formatXK_selector _ x _
theorem EncodeMatches.sknp (x : Reg) : EncodeMatches.Statement (.sknp x) := formatXK_selector _ x _
theorem EncodeMatches.ldVxDt (x : Reg) : EncodeMatches.Statement (.ldVxDt x) := formatXK_selector _ x _
theorem EncodeMatches.ldVxK (x : Reg) : EncodeMatches.Statement (.ldVxK x) := formatXK_selector _ x _
theorem EncodeMatches.ldDtVx (x : Reg) : EncodeMatches.Statement (.ldDtVx x) := formatXK_selector _ x _
theorem EncodeMatches.ldStVx (x : Reg) : EncodeMatches.Statement (.ldStVx x) := formatXK_selector _ x _
theorem EncodeMatches.addI (x : Reg) : EncodeMatches.Statement (.addI x) := formatXK_selector _ x _
theorem EncodeMatches.ldF (x : Reg) : EncodeMatches.Statement (.ldF x) := formatXK_selector _ x _
theorem EncodeMatches.ldB (x : Reg) : EncodeMatches.Statement (.ldB x) := formatXK_selector _ x _
theorem EncodeMatches.ldMemVx (x : Reg) : EncodeMatches.Statement (.ldMemVx x) := formatXK_selector _ x _
theorem EncodeMatches.ldVxMem (x : Reg) : EncodeMatches.Statement (.ldVxMem x) := formatXK_selector _ x _

end Sys2Proof.Laws
end

