-- ==== Sys2Proof/Tests/Slice0.lean ====
section
/-! SUPPORT. The model's own tests. Expected values are those of spec/95_test_vectors.md (its section is cited) or are worked by
hand from the rule cited. The last part holds, for each statement that has hypotheses, a concrete state that meets them. -/

open Sys2Proof Sys2Proof.Machine Sys2Proof.Safety Sys2Proof.Claims

namespace Sys2Proof.Tests

/-! ### Small states -/

/-- A state with some registers set. -/
def withRegs (l : List (Reg × Byte)) (s : State) : State := l.foldl (fun t p => setV t p.1 p.2) s

/-- A state with some bytes of memory set. -/
def withBytes (a : Nat) (bs : List Byte) (s : State) : State := setMem s (writeBytes s.mem a bs)

/-- What holds after the one step that runs the word `op` from a state. -/
def after {α : Type} (s : State) (op : Word) (f : State → α) : Option α :=
  match step (placeWord s op) with
  | .next t => some (f t)
  | .fault _ => none
  | .refused _ => none

/-- What holds after the next event of a state's schedule. -/
def afterEvent {α : Type} (s : State) (f : State → α) : Option α :=
  match step s with
  | .next t => some (f t)
  | .fault _ => none
  | .refused _ => none

/-- Whether executing an instruction changes a part of the state. -/
def changes {α : Type} [DecidableEq α] (i : Instr) (s : State) (f : State → α) : Bool :=
  match exec i s with
  | .next t => decide (f t ≠ f s)
  | .fault _ => false
  | .refused _ => false

/-- Registers 1, 2 and 15. -/
def v1v2vF (t : State) : Byte × Byte × Byte := (getV t 1#4, getV t 2#4, getV t 15#4)

/-! ### Decoding: a word for each constructor, written from the encodings of 30_encoding.md R65 -/

theorem test_decode_flow :
    decode [0x00#8, 0xEE#8] = .ok (.ret, []) ∧ decode [0x1A#8, 0xBC#8] = .ok (.jp 0xABC#12, []) ∧
    decode [0x23#8, 0x45#8] = .ok (.call 0x345#12, []) ∧ decode [0xB3#8, 0x45#8] = .ok (.jpV0 0x345#12, []) := by decide

theorem test_decode_skip :
    decode [0x31#8, 0x42#8] = .ok (.seKk 1#4 0x42#8, []) ∧ decode [0x4A#8, 0x43#8] = .ok (.sneKk 10#4 0x43#8, []) ∧
    decode [0x51#8, 0x20#8] = .ok (.seVy 1#4 2#4, []) ∧ decode [0x9A#8, 0xB0#8] = .ok (.sneVy 10#4 11#4, []) ∧
    decode [0xE1#8, 0x9E#8] = .ok (.skp 1#4, []) ∧ decode [0xE2#8, 0xA1#8] = .ok (.sknp 2#4, []) := by decide

theorem test_decode_load :
    decode [0x60#8, 0x05#8] = .ok (.ldKk 0#4 0x05#8, []) ∧ decode [0x7F#8, 0x01#8] = .ok (.addKk 15#4 0x01#8, []) ∧
    decode [0x81#8, 0x20#8] = .ok (.ldVy 1#4 2#4, []) ∧ decode [0xC1#8, 0x0F#8] = .ok (.rnd 1#4 0x0F#8, []) := by decide

theorem test_decode_logic :
    decode [0x81#8, 0x21#8] = .ok (.orVy 1#4 2#4, []) ∧ decode [0x8A#8, 0xF2#8] = .ok (.andVy 10#4 15#4, []) ∧
    decode [0x8F#8, 0x23#8] = .ok (.xorVy 15#4 2#4, []) := by decide

theorem test_decode_arithmetic :
    decode [0x81#8, 0x24#8] = .ok (.addVy 1#4 2#4, []) ∧ decode [0x81#8, 0x25#8] = .ok (.subVy 1#4 2#4, []) ∧
    decode [0x81#8, 0x26#8] = .ok (.shrVy 1#4 2#4, []) ∧ decode [0x81#8, 0x27#8] = .ok (.subnVy 1#4 2#4, []) ∧
    decode [0x8F#8, 0x0E#8] = .ok (.shlVy 15#4 0#4, []) := by decide

theorem test_decode_index :
    decode [0xA1#8, 0x23#8] = .ok (.ldI 0x123#12, []) ∧ decode [0xF1#8, 0x1E#8] = .ok (.addI 1#4, []) ∧
    decode [0xF2#8, 0x29#8] = .ok (.ldF 2#4, []) ∧ decode [0xF0#8, 0x33#8] = .ok (.ldB 0#4, []) ∧
    decode [0xFF#8, 0x55#8] = .ok (.ldMemVx 15#4, []) ∧ decode [0xF1#8, 0x65#8] = .ok (.ldVxMem 1#4, []) := by decide

theorem test_decode_display :
    decode [0x00#8, 0xE0#8] = .ok (.cls, []) ∧ decode [0xDA#8, 0xB7#8] = .ok (.drw 10#4 11#4 7#4, []) := by decide

theorem test_decode_timer_key :
    decode [0xF1#8, 0x07#8] = .ok (.ldVxDt 1#4, []) ∧ decode [0xF2#8, 0x0A#8] = .ok (.ldVxK 2#4, []) ∧
    decode [0xF3#8, 0x15#8] = .ok (.ldDtVx 3#4, []) ∧ decode [0xF4#8, 0x18#8] = .ok (.ldStVx 4#4, []) := by decide

/-- Section 2.8: these words match no row. -/
theorem test_decode_unmatched :
    [0x0000#16, 0x0123#16, 0x00E1#16, 0x00EF#16, 0x0FFF#16, 0x5121#16, 0x512F#16, 0x8128#16, 0x8129#16, 0x812A#16, 0x812B#16,
      0x812C#16, 0x812D#16, 0x812F#16, 0x9121#16, 0xE19F#16, 0xE1A0#16, 0xE100#16, 0xF100#16, 0xF175#16, 0xF1FF#16,
      0xFFFF#16].all (fun op => decodeWord op == none) = true := by decide

/-- R61: one byte is no instruction; the bytes after two stay. -/
theorem test_decode_length :
    decode [0x60#8] = .error .truncated ∧ decode [0x60#8, 0x0A#8, 0xF0#8, 0x33#8] = .ok (.ldKk 0#4 0x0A#8, [0xF0#8, 0x33#8]) := by
  decide

/-- Section X1: the fields of DAB7. -/
theorem test_fields :
    fieldFamily 0xDAB7#16 = 0xD#4 ∧ fieldX 0xDAB7#16 = 0xA#4 ∧ fieldY 0xDAB7#16 = 0xB#4 ∧ fieldN 0xDAB7#16 = 0x7#4 ∧
    fieldKk 0xDAB7#16 = 0xB7#8 ∧ fieldNnn 0xDAB7#16 = 0xAB7#12 := by decide

/-- The opcode table's word of CALL 0x345, and a word that no row gives. -/
theorem test_table_word :
    decodeTableWord 16 0x2345 = some (.call 0x345#12) ∧ decodeTableWord 16 0x5121 = none := by decide

/-- R42: the word is stored high byte first at 0x200. -/
theorem test_with_fetch_word :
    (State.reset.withFetchWord 16 0x612A).mem = [(0x200, 0x61#8), (0x201, 0x2A#8)] ∧
    afterEvent (State.reset.withFetchWord 16 0x612A) (fun t => getV t 1#4) = some 0x2A#8 := by decide

/-! ### Well-formedness: each check refuses an ill-formed word (R71) -/

theorem test_ill_formed_system : systemWordOk 0x00E1#16 = false ∧ isInstructionWord 0x0000#16 = false := by decide

theorem test_ill_formed_low_nibble :
    lowNibbleZero 0x5121#16 = false ∧ isInstructionWord 0x512F#16 = false ∧ isInstructionWord 0x9121#16 = false := by decide

theorem test_ill_formed_alu : aluSelectorOk 0x8128#16 = false ∧ isInstructionWord 0x812F#16 = false := by decide

theorem test_ill_formed_key : keySelectorOk 0xE19F#16 = false ∧ isInstructionWord 0xE100#16 = false := by decide

theorem test_ill_formed_misc : miscSelectorOk 0xF175#16 = false ∧ isInstructionWord 0xF1FF#16 = false := by decide

theorem test_well_formed :
    [0x00E0#16, 0x00EE#16, 0x5120#16, 0x8127#16, 0x812E#16, 0x9120#16, 0xE19E#16, 0xE1A1#16, 0xF107#16, 0xF165#16,
      0x1000#16].all isInstructionWord = true := by decide

/-! ### Flow (section 2.1) -/

theorem test_jp : after State.reset 0x1ABC#16 (fun t => t.pc) = some 0xABC#16 := by decide

theorem test_call :
    after State.reset 0x2ABC#16 (fun t => (t.stack[0], t.sp.val, t.pc)) = some (0x202#16, 1, 0xABC#16) := by decide

theorem test_call_full :
    after { State.reset with sp := 16 } 0x2200#16 (fun t => (t.fault, t.sp.val, t.pc)) =
      some (some .stackOverflow, 16, 0x202#16) := by decide

theorem test_ret :
    after { State.reset with sp := 1, stack := State.reset.stack.set 0 0x345#16 } 0x00EE#16
      (fun t => (t.sp.val, t.pc, t.stack[0])) = some (0, 0x345#16, 0x345#16) := by decide

theorem test_ret_empty :
    after State.reset 0x00EE#16 (fun t => (t.fault, t.sp.val, t.pc)) = some (some .stackUnderflow, 0, 0x202#16) := by decide

theorem test_jp_v0 :
    after (withRegs [(3#4, 0x10#8), (0#4, 0x99#8)] State.reset) 0xB345#16 (fun t => t.pc) = some 0x355#16 := by decide

theorem test_jp_v0_top :
    after (withRegs [(15#4, 0xFF#8)] State.reset) 0xBFFF#16 (fun t => t.pc) = some 0x10FE#16 := by decide

/-! ### Skips (section 2.2) -/

def skipState : State := withRegs [(1#4, 0x42#8), (2#4, 0x42#8), (3#4, 0x43#8)] State.reset

theorem test_se_sne_immediate :
    after skipState 0x3142#16 (fun t => t.pc) = some 0x204#16 ∧ after skipState 0x3143#16 (fun t => t.pc) = some 0x202#16 ∧
    after skipState 0x4142#16 (fun t => t.pc) = some 0x202#16 ∧ after skipState 0x4143#16 (fun t => t.pc) = some 0x204#16 := by
  decide

theorem test_se_sne_register :
    after skipState 0x5120#16 (fun t => t.pc) = some 0x204#16 ∧ after skipState 0x5130#16 (fun t => t.pc) = some 0x202#16 ∧
    after skipState 0x9110#16 (fun t => t.pc) = some 0x202#16 ∧ after skipState 0x9130#16 (fun t => t.pc) = some 0x204#16 := by
  decide

def keyState : State := withRegs [(1#4, 0x05#8), (2#4, 0x15#8)] { State.reset with keys := 0x0020#16 }

theorem test_skp :
    after keyState 0xE19E#16 (fun t => t.pc) = some 0x204#16 ∧ after keyState 0xE09E#16 (fun t => t.pc) = some 0x202#16 ∧
    after keyState 0xE29E#16 (fun t => t.pc) = some 0x202#16 := by decide

theorem test_sknp :
    after keyState 0xE1A1#16 (fun t => t.pc) = some 0x202#16 ∧ after keyState 0xE0A1#16 (fun t => t.pc) = some 0x204#16 ∧
    after keyState 0xE2A1#16 (fun t => t.pc) = some 0x204#16 := by decide

/-- "Skip at the top of memory": `PC` = 0xFFC. -/
theorem test_skip_top : after { State.reset with pc := 0xFFC#16 } 0x3000#16 (fun t => t.pc) = some 0x1000#16 := by decide

/-! ### Loads, logic, random (section 2.3) -/

def aluState : State := withRegs [(1#4, 0xF0#8), (2#4, 0x3C#8), (15#4, 0x55#8)] State.reset

theorem test_ld_kk : after aluState 0x61AB#16 v1v2vF = some (0xAB#8, 0x3C#8, 0x55#8) := by decide
theorem test_add_kk : after aluState 0x7110#16 v1v2vF = some (0x00#8, 0x3C#8, 0x55#8) := by decide
theorem test_add_kk_vF : after aluState 0x7F01#16 v1v2vF = some (0xF0#8, 0x3C#8, 0x56#8) := by decide
theorem test_ld_vy : after aluState 0x8120#16 v1v2vF = some (0x3C#8, 0x3C#8, 0x55#8) := by decide
theorem test_or : after aluState 0x8121#16 v1v2vF = some (0xFC#8, 0x3C#8, 0x55#8) := by decide
theorem test_and : after aluState 0x8122#16 v1v2vF = some (0x30#8, 0x3C#8, 0x55#8) := by decide
theorem test_xor : after aluState 0x8123#16 v1v2vF = some (0xCC#8, 0x3C#8, 0x55#8) := by decide

/-- C100: the mask 0 leaves 0, whatever the byte is. -/
theorem test_rnd_mask : after aluState 0xC100#16 (fun t => (getV t 1#4, t.rndCount)) = some (0#8, 1) := by
  have h : after aluState 0xC100#16 (fun t => (getV t 1#4, t.rndCount)) = some (Config.rnd 0 &&& 0#8, 1) := rfl
  rw [h, BitVec.and_zero]

/-! ### Flag-writing arithmetic (section 2.4) -/

def pair (a b f : Byte) : State := withRegs [(1#4, a), (2#4, b), (15#4, f)] State.reset

theorem test_add :
    after (pair 0xFF#8 0x01#8 0x55#8) 0x8124#16 v1v2vF = some (0x00#8, 0x01#8, 1#8) ∧
    after (pair 0x33#8 0x33#8 0x55#8) 0x8124#16 v1v2vF = some (0x66#8, 0x33#8, 0#8) := by decide

theorem test_add_vF :
    after (pair 0#8 0x01#8 0xFF#8) 0x8F24#16 (fun t => getV t 15#4) = some 0x02#8 ∧
    after (pair 0xFF#8 0#8 0x01#8) 0x81F4#16 v1v2vF = some (0x00#8, 0#8, 1#8) ∧
    after (pair 0#8 0#8 0x81#8) 0x8FF4#16 (fun t => getV t 15#4) = some 0x02#8 := by decide

theorem test_sub :
    after (pair 0x01#8 0xFF#8 0x55#8) 0x8125#16 v1v2vF = some (0x02#8, 0xFF#8, 0#8) ∧
    after (pair 0x80#8 0x80#8 0x55#8) 0x8125#16 v1v2vF = some (0x00#8, 0x80#8, 0#8) ∧
    after (pair 0xFF#8 0x01#8 0x55#8) 0x8125#16 v1v2vF = some (0xFE#8, 0x01#8, 1#8) := by decide

theorem test_sub_vF :
    after (pair 0#8 0x03#8 0x05#8) 0x8F25#16 (fun t => getV t 15#4) = some 0xFE#8 ∧
    after (pair 0xFF#8 0#8 0x01#8) 0x81F5#16 v1v2vF = some (0xFE#8, 0#8, 1#8) := by decide

theorem test_shr :
    after (pair 0x01#8 0xFF#8 0x55#8) 0x8126#16 v1v2vF = some (0x00#8, 0xFF#8, 1#8) ∧
    after (pair 0x01#8 0x02#8 0x55#8) 0x8126#16 v1v2vF = some (0x00#8, 0x02#8, 0#8) := by decide

theorem test_shr_vF :
    after (pair 0#8 0x01#8 0xFF#8) 0x8F26#16 (fun t => getV t 15#4) = some 0#8 ∧
    after (pair 0x10#8 0#8 0x81#8) 0x81F6#16 v1v2vF = some (0x08#8, 0#8, 1#8) := by decide

theorem test_subn :
    after (pair 0xFF#8 0x01#8 0x55#8) 0x8127#16 v1v2vF = some (0x02#8, 0x01#8, 0#8) ∧
    after (pair 0x01#8 0xFF#8 0x55#8) 0x8127#16 v1v2vF = some (0xFE#8, 0xFF#8, 1#8) := by decide

theorem test_subn_vF :
    after (pair 0#8 0x81#8 0x05#8) 0x8F27#16 (fun t => getV t 15#4) = some 0x80#8 ∧
    after (pair 0x10#8 0#8 0x20#8) 0x81F7#16 v1v2vF = some (0xF1#8, 0#8, 1#8) := by decide

theorem test_shl :
    after (pair 0xFF#8 0x01#8 0x55#8) 0x812E#16 v1v2vF = some (0xFE#8, 0x01#8, 0#8) ∧
    after (pair 0x01#8 0xFF#8 0x55#8) 0x812E#16 v1v2vF = some (0x02#8, 0xFF#8, 1#8) := by decide

theorem test_shl_vF :
    after (pair 0#8 0x81#8 0#8) 0x8F2E#16 (fun t => getV t 15#4) = some 0x02#8 ∧
    after (pair 0#8 0#8 0x10#8) 0x8FFE#16 (fun t => getV t 15#4) = some 0x00#8 := by decide

/-! ### Index and memory (section 2.5) -/

theorem test_ld_i : after State.reset 0xA123#16 (fun t => t.i) = some 0x0123#16 := by decide

theorem test_add_i :
    after (withRegs [(1#4, 0x02#8), (15#4, 0x07#8)] { State.reset with i := 0xFFFF#16 }) 0xF11E#16
      (fun t => (t.i, getV t 15#4)) = some (0x0001#16, 0x07#8) := by decide

theorem test_ld_f :
    after (withRegs [(1#4, 0x0F#8)] State.reset) 0xF129#16 (fun t => t.i) = some 0x004B#16 ∧
    after (withRegs [(1#4, 0xFF#8)] State.reset) 0xF129#16 (fun t => t.i) = some 0x04FB#16 := by decide

theorem test_ld_b :
    after (withRegs [(0#4, 0x7B#8)] { State.reset with i := 0xFFD#16 }) 0xF033#16
      (fun t => (readBytes t.mem 0xFFD 3, t.i)) = some ([1#8, 2#8, 3#8], 0xFFD#16) := by decide

/-- Section X7 (a): the store lands in the font. -/
theorem test_ld_b_font :
    after (withRegs [(0#4, 0x0A#8)] State.reset) 0xF033#16 (fun t => readBytes t.mem 0 5) =
      some [0x00#8, 0x01#8, 0x00#8, 0x90#8, 0xF0#8] := by decide

def bulkState : State :=
  withBytes 0x400 [0xA0#8, 0xA1#8, 0xA2#8, 0xA3#8]
    (withRegs [(0#4, 0x10#8), (1#4, 0x11#8), (2#4, 0x12#8), (3#4, 0x13#8)] { State.reset with i := 0x400#16 })

theorem test_store_bulk :
    after bulkState 0xF255#16 (fun t => (readBytes t.mem 0x400 4, t.i)) =
      some ([0x10#8, 0x11#8, 0x12#8, 0xA3#8], 0x400#16) := by decide

/-- FF55 with `I` = 0FF1: no byte is written. -/
theorem test_store_bulk_range :
    after { bulkState with i := 0xFF1#16 } 0xFF55#16 (fun t => (readByte t.mem 0xFF1, t.fault, t.pc)) =
      some (0#8, some .memoryRange, 0x202#16) := by decide

theorem test_load_bulk :
    after bulkState 0xF265#16 (fun t => (getV t 0#4, getV t 1#4, getV t 2#4, getV t 3#4, t.i)) =
      some (0xA0#8, 0xA1#8, 0xA2#8, 0x13#8, 0x400#16) := by decide

theorem test_load_bulk_range :
    after { bulkState with i := 0xFF1#16 } 0xFF65#16 (fun t => (getV t 0#4, t.fault)) =
      some (0x10#8, some .memoryRange) := by decide

/-! ### Display (section 2.6) -/

def spriteState : State := withBytes 0x300 [0xC0#8, 0xC0#8, 0xFF#8] { State.reset with i := 0x300#16 }

theorem test_drw :
    after (withRegs [(0#4, 0xFF#8), (1#4, 0xFF#8)] spriteState) 0xD012#16
      (fun t => (cell t 63 31 && cell t 0 31 && cell t 63 0 && cell t 0 0, cell t 1 0, getV t 15#4, t.redraw)) =
      some (true, false, 0#8, true) := by decide

/-- DF11: the column reads 0 up to the collision on (2,0) and 1 after it. -/
theorem test_drw_vF :
    after (withRegs [(15#4, 0x09#8)]
        { spriteState with i := 0x302#16, disp := spriteState.disp.set 0 0x4#64 }) 0xDF11#16
      (fun t => (t.disp[0], getV t 15#4)) = some (0x1F3#64, 1#8) := by decide

theorem test_drw_range :
    after { spriteState with i := 0xFFF#16 } 0xD012#16 (fun t => (t.fault, t.redraw)) = some (some .memoryRange, false) ∧
    after { spriteState with i := 0x1000#16 } 0xD010#16 (fun t => (t.fault, t.redraw)) = some (none, true) := by decide

theorem test_cls :
    after (withRegs [(15#4, 0x09#8)] { State.reset with disp := State.reset.disp.set 4 0xFF#64 }) 0x00E0#16
      (fun t => (t.disp[4], getV t 15#4, t.redraw)) = some (0#64, 0x09#8, true) := by decide

/-! ### Timers, keys and host events (section 2.7) -/

theorem test_ld_vx_dt : after { State.reset with dt := 0x2A#8 } 0xF107#16 (fun t => (getV t 1#4, t.dt)) =
    some (0x2A#8, 0x2A#8) := by decide

theorem test_ld_dt : after (withRegs [(2#4, 0x99#8)] State.reset) 0xF215#16 (fun t => t.dt) = some 0x99#8 := by decide

theorem test_ld_st :
    after (withRegs [(3#4, 0x07#8)] State.reset) 0xF318#16 (fun t => (t.st, tone t)) = some (0x07#8, true) ∧
    after { State.reset with st := 0x07#8 } 0xF318#16 (fun t => (t.st, tone t)) = some (0x00#8, false) := by decide

theorem test_ld_k :
    after { State.reset with keys := 0x1208#16 } 0xF10A#16 (fun t => (getV t 1#4, t.pc, t.waitkey)) =
      some (0x03#8, 0x202#16, false) := by decide

theorem test_ld_k_wait :
    after State.reset 0xF10A#16 (fun t => (getV t 1#4, t.pc, t.waitkey)) = some (0x00#8, 0x200#16, true) := by decide

theorem test_timer_tick :
    afterEvent { State.reset with dt := 2#8, st := 1#8, schedule := [.timerTick] } (fun t => (t.dt, t.st, tone t)) =
      some (1#8, 0#8, false) ∧
    afterEvent { State.reset with dt := 5#8, fault := some .stackOverflow, schedule := [.timerTick] } (fun t => (t.dt, t.st)) =
      some (4#8, 0#8) := by decide

theorem test_keys :
    afterEvent { State.reset with schedule := [.keyDown 5#4] } (fun t => t.keys) = some 0x0020#16 ∧
    afterEvent { State.reset with keys := 0x0021#16, schedule := [.keyUp 5#4] } (fun t => t.keys) = some 0x0001#16 := by decide

/-- R55's table: the first and the last byte of the font, and the bytes around its end and the end of memory. -/
theorem test_font :
    [0x000, 0x04F, 0x050, 0x200, 0xFFF].map (readByte State.reset.mem) = [0xF0#8, 0x80#8, 0#8, 0#8, 0#8] := by decide

/-- Section 2.9: after a fatal condition `Reset` gives the state of R25 back, the keys apart. -/
theorem test_reset :
    afterEvent { State.reset with fault := some .stackUnderflow, keys := 1#16, pc := 0xFFF#16, schedule := [.reset] }
      (fun t => t) = some { State.reset with keys := 1#16 } := by decide

/-- Section X7: the program's bytes from 0x200; a fatal condition stays. -/
theorem test_load_rom :
    afterEvent { State.reset with fault := some .memoryRange, schedule := [.loadRom [0x60#8, 0x0A#8]] }
      (fun t => (t.mem, t.fault)) = some ([(0x200, 0x60#8), (0x201, 0x0A#8)], some .memoryRange) := by decide

/-! ### Conditions and reports (sections 2.1, 2.8, 2.9) -/

theorem test_unmatched :
    after State.reset 0x5121#16 (fun t => (t.pc, t.fault)) = some (0x202#16, none) ∧
    stepReport (placeWord State.reset 0x5121#16) = .unimplemented 0x5121#16 := by decide

theorem test_fetch_range :
    stepReport { State.reset with pc := 0x10FE#16 } = .fatalRange .fetch 0x10FE ∧
    afterEvent { State.reset with pc := 0x10FE#16 } (fun t => (t.pc, t.fault)) = some (0x10FE#16, some .memoryRange) := by decide

theorem test_halted_first :
    stepReport { State.reset with pc := 0xFFF#16, fault := some .stackUnderflow } = .halted .stackUnderflow := by decide

theorem test_report_data :
    stepReport (placeWord { State.reset with i := 0x1234#16 } 0xD013#16) = .fatalRange .data 0x1234 ∧
    stepReport (placeWord { State.reset with i := 0xFFF#16 } 0xD012#16) = .fatalRange .data 0x1000 ∧
    stepReport (placeWord { State.reset with sp := 16 } 0x2200#16) = .fatalStack .stackOverflow := by decide

theorem test_ports :
    faultCode { State.reset with fault := some .memoryRange } = 3#2 ∧ stepResult State.reset = 1#2 ∧
    diagOpcode State.reset = some 0x0000#16 ∧ faultAddr { State.reset with pc := 0xFFF#16 } = some 0xFFF#17 ∧
    debugRead State.reset .pc = 0x200#16 := by decide

/-- R27: the pieces of state that R225 gives other ports, and the keys, through the debug port. -/
theorem test_debug_read :
    let s := { State.reset with keys := 0x8001#16, redraw := true, fault := some .stackUnderflow,
                                disp := State.reset.disp.set 31 (BitVec.twoPow 64 63) }
    debugRead s .keys = 0x8001#16 ∧ debugRead s .redraw = 1#16 ∧ debugRead s .waitkey = 0#16 ∧ debugRead s .fault = 2#16 ∧
    debugRead s (.disp 63#6 31#5) = 1#16 ∧ debugRead s (.disp 62#6 31#5) = 0#16 := by decide

/-! ### Witnesses: for each statement with hypotheses, a state and operands that meet them all -/

theorem test_witness_encode_of_decode : decodeWord 0xF365#16 = some (.ldVxMem 3#4) := by decide

theorem test_witness_one_row_per_word :
    decodeWord 0x812E#16 = some (.shlVy 1#4 2#4) ∧ matchesRow 0x812E#16 (.shlVy 15#4 0#4) = true := by decide

theorem test_witness_unmatched_words :
    decodeWord 0x8128#16 = none ∧ isInstructionWord 0x8128#16 = false := by decide

/-- `PC` = 0xFFE is the last address a fetch is in range at. -/
theorem test_witness_step_runs :
    let s := placeWord { State.reset with pc := 0xFFE#16 } 0x6105#16
    nextEvent s = .step ∧ s.fault = none ∧ s.pc.toNat ≤ 0xFFE ∧
      decode (readBytes s.mem s.pc.toNat 2) = .ok (.ldKk 1#4 5#8, []) := by decide

theorem test_witness_unmatched_step :
    let s := { placeWord { State.reset with pc := 0xFFE#16 } 0x5121#16 with schedule := [.step, .timerTick] }
    nextEvent s = .step ∧ s.fault = none ∧ s.pc.toNat ≤ 0xFFE ∧ readByte s.mem s.pc.toNat = 0x51#8 ∧
      readByte s.mem (s.pc.toNat + 1) = 0x21#8 ∧ isInstructionWord (0x51#8 ++ 0x21#8) = false := by decide

theorem test_witness_fetch_range :
    let s := { State.reset with pc := 0xFFF#16 }
    nextEvent s = .step ∧ s.fault = none ∧ s.pc.toNat > 0xFFE := by decide

theorem test_witness_halted :
    let s := { State.reset with pc := 0xFFF#16, fault := some .stackUnderflow }
    nextEvent s = .step ∧ s.fault = some .stackUnderflow := by decide

/-- A step that raises a condition after its fetch, and one whose fetch is out of range. -/
theorem test_witness_precise :
    (placeWord State.reset 0x00EE#16).fault = none ∧
    afterEvent (placeWord State.reset 0x00EE#16) (fun t => t.fault) = some (some .stackUnderflow) ∧
    afterEvent { State.reset with pc := 0xFFF#16 } (fun t => t.fault) = some (some .memoryRange) := by decide

/-- A step for each report: Ok, unmatched, stack, data range, fetch range. -/
theorem test_witness_report :
    nextEvent State.reset = .step ∧ State.reset.fault = none ∧
    stepReport (takeEvent (placeWord State.reset 0x6105#16)) = .ok ∧
    stepReport (takeEvent State.reset) = .unimplemented 0#16 ∧
    stepReport (takeEvent (placeWord State.reset 0x00EE#16)) = .fatalStack .stackUnderflow ∧
    stepReport (takeEvent (placeWord { State.reset with i := 0x1000#16 } 0xF055#16)) = .fatalRange .data 0x1000 ∧
    stepReport (takeEvent { State.reset with pc := 0xFFF#16 }) = .fatalRange .fetch 0xFFF := by decide

theorem test_witness_only_reset_clears :
    let s := { State.reset with fault := some .memoryRange, schedule := [.reset] }
    s.fault = some .memoryRange ∧ afterEvent s (fun t => decide (t.fault ≠ some .memoryRange)) = some true := by decide

/-- A legal state at the bounds, with a byte listed in memory, and its step. -/
theorem test_witness_legal :
    Legal { State.reset with pc := 0x10FE#16, stack := Vector.replicate 16 0x1000#16, mem := [(0xFFF, 1#8)] } ∧
    afterEvent { State.reset with pc := 0x10FE#16 } (fun t => t.fault) = some (some .memoryRange) := by
  refine ⟨⟨by decide, by show (0x10FE : Nat) ≤ 0x10FE; omega, fun k => ?_⟩, by decide⟩
  revert k; decide

/-- Every clause of the access matrix has an instruction that changes the piece of state. -/
theorem test_witness_access_matrix :
    changes (.ldI 5#12) State.reset (fun t => t.i) = true ∧
    changes (.call 5#12) State.reset (fun t => t.sp) = true ∧
    changes (.call 5#12) State.reset (fun t => t.stack) = true ∧
    changes (.ldDtVx 1#4) aluState (fun t => t.dt) = true ∧
    changes (.ldStVx 1#4) aluState (fun t => t.st) = true ∧
    changes (.ldMemVx 1#4) { aluState with i := 0xFFE#16 } (fun t => t.mem) = true ∧
    changes (.drw 0#4 0#4 1#4) spriteState (fun t => t.disp) = true ∧
    changes .cls State.reset (fun t => t.redraw) = true ∧
    changes (.ldVxK 0#4) State.reset (fun t => t.waitkey) = true ∧
    changes .ret State.reset (fun t => t.fault) = true ∧
    changes (.rnd 1#4 0#8) State.reset (fun t => t.rndCount) = true ∧
    changes (.ldI 5#12) { State.reset with fault := some .memoryRange } (fun t => t.fault) = false := by decide

/-- The clause of `PC`: a jump, a taken skip and a waiting key wait change it. -/
theorem test_witness_access_matrix_pc :
    changes (.jp 5#12) State.reset (fun t => t.pc) = true ∧
    changes (.seVy 1#4 1#4) State.reset (fun t => t.pc) = true ∧
    changes (.sknp 1#4) State.reset (fun t => t.pc) = true ∧
    changes (.ldVxK 1#4) State.reset (fun t => t.pc) = true := by decide

/-- The clause of the general registers, each of its cases: the last register a bulk load writes, and the flag, among them. -/
theorem test_witness_access_matrix_v :
    changes (.ldKk 1#4 5#8) aluState (fun t => getV t 1#4) = true ∧
    changes (.subnVy 1#4 2#4) aluState (fun t => getV t 1#4) = true ∧
    changes (.ldVxDt 1#4) aluState (fun t => getV t 1#4) = true ∧
    changes (.ldVxK 1#4) { aluState with keys := 1#16 } (fun t => getV t 1#4) = true ∧
    changes (.ldVxMem 1#4) aluState (fun t => getV t 1#4) = true ∧
    changes (.ldVxMem 1#4) aluState (fun t => getV t 2#4) = false ∧
    changes (.addVy 1#4 2#4) aluState (fun t => getV t 15#4) = true ∧
    changes (.drw 0#4 0#4 0#4) aluState (fun t => getV t 15#4) = true := by decide

/-- Every clause of the flag register's writers has an instruction that changes `V[15]`. -/
theorem test_witness_flag_writers :
    changes (.addVy 1#4 2#4) aluState (fun t => getV t 15#4) = true ∧
    changes (.drw 0#4 0#4 0#4) aluState (fun t => getV t 15#4) = true ∧
    changes (.addKk 15#4 1#8) aluState (fun t => getV t 15#4) = true ∧
    changes (.ldVy 15#4 1#4) aluState (fun t => getV t 15#4) = true ∧
    changes (.ldVxDt 15#4) aluState (fun t => getV t 15#4) = true ∧
    changes (.ldVxK 15#4) { aluState with keys := 1#16 } (fun t => getV t 15#4) = true ∧
    changes (.ldVxMem 15#4) aluState (fun t => getV t 15#4) = true := by decide

/-- Two different states that look the same to a program, one step from each. -/
theorem test_witness_outputs :
    let s := { State.reset with st := 5#8, redraw := true }
    let s' := { State.reset with waitkey := true }
    s ≠ s' ∧ visible s = visible s' ∧ afterEvent s (fun t => t.st) = some 5#8 ∧ afterEvent s' (fun t => t.st) = some 0#8 := by
  decide

/-- The stack's bounds: CALL at 15 and at 16, RET at 16 and at 0 (test_ret_empty). -/
theorem test_witness_stack :
    ({ State.reset with sp := 15 } : State).sp.val = (15 : Fin 16).val ∧
    changes (.call 0x300#12) { State.reset with sp := 15 } (fun t => t.fault) = false ∧
    ({ State.reset with sp := 16 } : State).sp.val = 16 ∧
    changes (.call 0x300#12) { State.reset with sp := 16 } (fun t => t.fault) = true ∧
    ({ State.reset with sp := 16 } : State).sp.val = (15 : Fin 16).val + 1 ∧
    changes .ret { State.reset with sp := 16 } (fun t => t.sp) = true ∧ State.reset.sp.val = 0 := by decide

theorem test_witness_ret_undoes_call :
    ∃ t u : State, State.reset.sp.val < 16 ∧ exec (.call 0x300#12) State.reset = .next t ∧ u.stack = t.stack ∧ u.sp = t.sp ∧
      u.pc ≠ t.pc :=
  ⟨_, { State.reset with sp := 1, stack := State.reset.stack.set 0 0x200#16, pc := 0x400#16 }, by decide, rfl, by decide,
    by decide, by decide⟩

/-- Each of the four cases that the tables of R127 to R131 tell apart by register 15. -/
theorem test_witness_flag_cases :
    ([(1#4, 2#4), (15#4, 2#4), (1#4, 15#4), (15#4, 15#4)] : List (Reg × Reg)).map
      (fun p => (decide (p.1 = 15#4), decide (p.2 = 15#4))) =
      [(false, false), (true, false), (false, true), (true, true)] := by decide

/-- LD B at the last address in range and at the first out of it. -/
theorem test_witness_digits :
    ({ State.reset with i := 0xFFD#16 } : State).i.toNat + 2 ≤ 0xFFF ∧
    ({ State.reset with i := 0xFFE#16 } : State).i.toNat + 2 > 0xFFF ∧
    changes (.ldB 0#4) { State.reset with i := 0xFFE#16 } (fun t => t.fault) = true := by decide

/-- The bulk transfers at the last address in range and at the first out of it. -/
theorem test_witness_bulk :
    ({ State.reset with i := 0xFF0#16 } : State).i.toNat + (15#4).toNat ≤ 0xFFF ∧
    changes (.ldMemVx 15#4) { State.reset with i := 0xFF0#16 } (fun t => t.fault) = false ∧
    ({ State.reset with i := 0xFF1#16 } : State).i.toNat + (15#4).toNat > 0xFFF ∧
    changes (.ldVxMem 15#4) { State.reset with i := 0xFF1#16 } (fun t => t.fault) = true ∧
    ({ State.reset with i := 0xFFF#16 } : State).i.toNat + (0#4).toNat ≤ 0xFFF := by decide

/-- A store and a state with the same memory and `I` but other registers. -/
theorem test_witness_bulk_undo :
    ∃ t u : State, bulkState.i.toNat + (2#4).toNat ≤ 0xFFF ∧ exec (.ldMemVx 2#4) bulkState = .next t ∧ u.mem = t.mem ∧ u.i = t.i ∧
      u.v ≠ t.v :=
  ⟨_, setV (setMem bulkState (writeBytes bulkState.mem 0x400 [0x10#8, 0x11#8, 0x12#8])) 0#4 0xEE#8, by decide, rfl, by decide,
    by decide, by decide⟩

/-- Section 2.5, self-modification, at the top of memory. -/
theorem test_witness_self_modify :
    let s := withRegs [(0#4, 0x62#8), (1#4, 0x77#8)] { State.reset with i := 0xFFE#16, pc := 0xFFE#16 }
    1 ≤ (1#4).toNat ∧ s.i = s.pc ∧ s.i.toNat + (1#4).toNat ≤ 0xFFF := by decide

/-- DRW in range with `n` = 0 beyond memory and with the last byte at 0xFFF; out of range one byte further. -/
theorem test_witness_drw_range :
    0#4 ≠ 15#4 ∧ 1#4 ≠ 15#4 ∧ (2#4 ≠ 0#4 ∧ ({ State.reset with i := 0xFFE#16 } : State).i.toNat + (2#4).toNat ≤ 0x1000) ∧
    changes (.drw 0#4 1#4 0#4) { State.reset with i := 0xFFFF#16 } (fun t => t.fault) = false ∧
    changes (.drw 0#4 1#4 2#4) { State.reset with i := 0xFFE#16 } (fun t => t.fault) = false ∧
    ({ State.reset with i := 0xFFF#16 } : State).i.toNat + (2#4).toNat > 0x1000 ∧
    changes (.drw 0#4 1#4 2#4) { State.reset with i := 0xFFF#16 } (fun t => t.fault) = true := by decide

/-- A covered cell that is set (a collision), and a display on which no covered cell is. -/
theorem test_witness_drw_collision :
    covers spriteState 0#4 1#4 2 1 1 = true ∧ cell { spriteState with disp := spriteState.disp.set 1 0x2#64 } 1 1 = true ∧
    cell spriteState 1 1 = false ∧ setBits spriteState 2 = [(0, 0), (0, 1), (1, 0), (1, 1)] := by decide

theorem spriteState_rows : ∀ k : Fin 32, spriteState.disp[k] = 0#64 := by decide

/-- A first and a second draw of the same sprite. -/
theorem test_witness_draw_twice :
    ∃ t u : State, 0#4 ≠ 15#4 ∧ 1#4 ≠ 15#4 ∧ spriteState.i.toNat + (2#4).toNat ≤ 0x1000 ∧
      exec (.drw 0#4 1#4 2#4) spriteState = .next t ∧ exec (.drw 0#4 1#4 2#4) t = .next u ∧
      setBits spriteState 2 ≠ [] ∧ ∀ px py, px < 64 → py < 32 → covers spriteState 0#4 1#4 2 px py = true →
        cell spriteState px py = false :=
  ⟨_, _, by decide, by decide, by decide, rfl, rfl, by decide, fun px py _ hy _ => by
    have e : spriteState.disp[py]'hy = 0#64 := spriteState_rows ⟨py, hy⟩
    rw [cell, dif_pos hy, e, BitVec.getLsbD_zero]⟩

/-- A step after which `DT` is greater. -/
theorem test_witness_timer_rises :
    afterEvent (placeWord (withRegs [(2#4, 0x99#8)] State.reset) 0xF215#16)
      (fun t => decide (t.dt.toNat > State.reset.dt.toNat)) = some true := by decide

/-- The least and the greatest key, and no key. -/
theorem test_witness_key_wait :
    (let s := { State.reset with keys := 0xFFFF#16 }; s.keys.getLsbD (0#4).toNat = true) ∧
    (let s := { State.reset with keys := 0x8000#16 }
     s.keys.getLsbD (15#4).toNat = true ∧ ∀ j, j < (15#4).toNat → s.keys.getLsbD j = false) ∧ State.reset.keys = 0#16 := by
  decide

theorem test_witness_key_wait_step :
    let s := placeWord State.reset 0xF10A#16
    nextEvent s = .step ∧ s.fault = none ∧ s.pc.toNat ≤ 0xFFE ∧
      decode (readBytes s.mem s.pc.toNat 2) = .ok (.ldVxK 1#4, []) ∧ s.keys = 0#16 := by decide

/-- A schedule headed by each host event that a statement is about. -/
theorem test_witness_schedules :
    let at0 (e : HostEvent) : State := { State.reset with schedule := [e, .step] }
    (at0 .timerTick).schedule = .timerTick :: [.step] ∧ (at0 (.keyDown 15#4)).schedule = .keyDown 15#4 :: [.step] ∧
    (at0 (.keyUp 0#4)).schedule = .keyUp 0#4 :: [.step] ∧ (at0 .clearRedraw).schedule = .clearRedraw :: [.step] ∧
    (at0 (.loadRom [1#8])).schedule = .loadRom [1#8] :: [.step] ∧ (at0 .reset).schedule = .reset :: [.step] := by decide

/-- Two states that no selection of the debug port tells apart, though the model's own fields differ. -/
theorem test_witness_debug_port :
    let s' := { State.reset with rndCount := 1, schedule := [.step] }
    Memory.wf State.reset.mem = true ∧ Memory.wf s'.mem = true ∧ State.reset ≠ s' ∧
      ∀ sel, debugRead State.reset sel = debugRead s' sel :=
  ⟨by decide, by decide, by decide, fun sel => by cases sel <;> rfl⟩

/-- A run that has ended, at the entry point and at the last address a fetch is in range at; its next event a `Step`, or a tick. -/
theorem test_witness_run_ended :
    RunEnded (placeWord State.reset 0x1200#16) ∧
    RunEnded (placeWord { State.reset with pc := 0xFFE#16 } 0x1FFE#16) ∧
    nextEvent (placeWord State.reset 0x1200#16) = .step ∧
    RunEnded { placeWord State.reset 0x1200#16 with schedule := [.timerTick] } ∧
    ¬ RunEnded (placeWord State.reset 0x1202#16) := by
  simp only [RunEnded, Running]; decide

/-- R245's bound on the length of a ROM, met and passed. -/
theorem test_witness_rom_length :
    loadOverrun (List.replicate 3584 1#8) = none ∧ loadOverrun (List.replicate 3585 1#8) = some 3585 := by
  simp only [loadOverrun, List.length_replicate]; decide

end Sys2Proof.Tests
end

section
/-! PROOFS. What one instruction can do to the state, and what one transition can do, each said once; every claim about who
writes what, and every invariant, is a case analysis on these two. -/

namespace Sys2Proof.Proofs

open Sys2Proof Sys2Proof.Machine Sys2Proof.Safety

/-! ### The rows of the access matrix (10_state.md R26) -/

/-- The writers of `I`. -/
def WritesIndex (i : Instr) : Prop := (∃ nnn, i = .ldI nnn) ∨ (∃ x, i = .addI x) ∨ ∃ x, i = .ldF x

/-- The writers of memory. -/
def WritesMem (i : Instr) : Prop := (∃ x, i = .ldB x) ∨ ∃ x, i = .ldMemVx x

/-- The instructions that can raise a fatal condition. -/
def CanRaise (i : Instr) : Prop :=
  i = .ret ∨ (∃ nnn, i = .call nnn) ∨ (∃ x y n, i = .drw x y n) ∨ (∃ x, i = .ldB x) ∨ (∃ x, i = .ldMemVx x) ∨
    ∃ x, i = .ldVxMem x

/-- The conditional skips. -/
def IsSkip (i : Instr) : Prop :=
  (∃ x kk, i = .seKk x kk ∨ i = .sneKk x kk) ∨ (∃ x y, i = .seVy x y ∨ i = .sneVy x y) ∨ ∃ x, i = .skp x ∨ i = .sknp x

/-- The arithmetic that writes `V[15]` as a flag. -/
def IsFlagOp (i : Instr) : Prop :=
  ∃ x y, i = .addVy x y ∨ i = .subVy x y ∨ i = .shrVy x y ∨ i = .subnVy x y ∨ i = .shlVy x y

/-- The writers of the general register `r`. -/
def WritesReg (i : Instr) (r : Reg) : Prop :=
  (∃ kk, i = .ldKk r kk ∨ i = .addKk r kk ∨ i = .rnd r kk) ∨
  (∃ y, i = .ldVy r y ∨ i = .orVy r y ∨ i = .andVy r y ∨ i = .xorVy r y ∨ i = .addVy r y ∨ i = .subVy r y ∨
    i = .shrVy r y ∨ i = .subnVy r y ∨ i = .shlVy r y) ∨
  i = .ldVxDt r ∨ i = .ldVxK r ∨ (∃ x, i = .ldVxMem x ∧ r.toNat ≤ x.toNat) ∨
  (r = 15#4 ∧ (IsFlagOp i ∨ ∃ x y n, i = .drw x y n))

/-! ### What one instruction can do -/

/-- `Effect i s t`: executing `i` in `s` may leave `t`. One constructor for each shape of update; what `t` holds is given as
far as the access matrix and the bounds of R13 and R103 need it. -/
inductive Effect (i : Instr) (s : State) : State → Prop
  | regs (v : Vector Byte 16) (h : ∀ r, getV (setRegs s v) r ≠ getV s r → WritesReg i r) : Effect i s (setRegs s v)
  | random (x : Reg) (kk b : Byte) (h : i = .rnd x kk) : Effect i s (setRndCount (setV s x b) (s.rndCount + 1))
  | index (w : Word) (h : WritesIndex i) : Effect i s (setI s w)
  | mem (m : Memory) (h : WritesMem i) (hm : Memory.wf s.mem = true → Memory.wf m = true) : Effect i s (setMem s m)
  | delay (x : Reg) (h : i = .ldDtVx x) : Effect i s (setDt s (getV s x))
  | sound (x : Reg) (h : i = .ldStVx x) : Effect i s (setSt s (getV s x))
  | clear (h : i = .cls) : Effect i s (setRedraw (clearDisp s) true)
  | draw (x y : Reg) (n : Nibble) (v : Vector Byte 16) (d : Vector (BitVec 64) 32) (h : i = .drw x y n)
      (hv : ∀ r, r ≠ flagReg → getV (setRegs s v) r = getV s r) : Effect i s (setRedraw (setDisp (setRegs s v) d) true)
  | skip (b : Bool) (h : IsSkip i) : Effect i s (setPc s (if b then s.pc + 2#16 else s.pc))
  | wait (x : Reg) (h : i = .ldVxK x) : Effect i s (setWaitkey (setPc s (s.pc - 2#16)) true)
  | jump (nnn : Addr12) (w : Word) (h : i = .jp nnn ∨ i = .jpV0 nnn) (hw : w.toNat ≤ 0x10FE) : Effect i s (setPc s w)
  | push (nnn : Addr12) (k : Nat) (hk : k < 16) (n : Fin 17) (h : i = .call nnn) :
      Effect i s (setPc (setSp (setStack s (s.stack.set k s.pc hk)) n) (zextAddr nnn))
  | pop (k : Nat) (hk : k < 16) (n : Fin 17) (h : i = .ret) : Effect i s (setPc (setSp s n) s.stack[k])
  | fatal (c : Fatal) (h : CanRaise i) : Effect i s (setFault s (some c))

/-- `i` answers in `s`, with an effect of one of these shapes. -/
def Answers (i : Instr) (s : State) : Prop := ∃ t, exec i s = .next t ∧ Effect i s t

variable {i : Instr} {s t : State}

theorem writesReg_flagReg (h : IsFlagOp i ∨ ∃ x y n, i = .drw x y n) : WritesReg i flagReg :=
  .inr (.inr (.inr (.inr (.inr ⟨rfl, h⟩))))

/-- An instruction that only loads its destination register. -/
theorem effect_setV (x : Reg) (b : Byte) (h : WritesReg i x) : Effect i s (setV s x b) := by
  refine .regs _ fun r hr => ?_
  have hxr : x = r := by
    by_contra hne
    exact hr (getV_setV_ne s x r b hne)
  exact hxr ▸ h

/-- Flag-writing arithmetic writes its destination and `V[15]` (R120). -/
theorem effect_flagThenResult (x y : Reg) (f g : Byte → Byte → Byte) (h : WritesReg i x) (h15 : IsFlagOp i) :
    Effect i s (flagThenResult x y f g s) := by
  refine .regs _ fun r hr => ?_
  change getV (flagThenResult x y f g s) r ≠ getV s r at hr
  rw [getV_flagThenResult] at hr
  by_cases hx : x = r
  · exact hx ▸ h
  · by_cases hf : flagReg = r
    · exact hf ▸ writesReg_flagReg (.inl h15)
    · simp [hx, hf] at hr

/-- A bulk load writes the registers up to `x` (R145). -/
theorem effect_bulkLoad (x : Reg) : Effect (.ldVxMem x) s (bulkLoad s (List.range (bulkCount x))) := by
  rw [bulkLoad_eq]
  refine .regs _ fun r hr => ?_
  change getV { s with v := (bulkLoad s (List.range (bulkCount x))).v } r ≠ getV s r at hr
  rw [← bulkLoad_eq, getV_bulkLoad s _ (by have := x.isLt; unfold bulkCount; omega)] at hr
  have hlt : r.toNat < bulkCount x := by
    by_contra hge
    simp [hge] at hr
  exact .inr (.inr (.inr (.inr (.inl ⟨x, rfl, Nat.le_of_lt_succ hlt⟩))))

/-- Drawing writes `V[15]`, the display and `REDRAW` (R151). -/
theorem effect_draw (x y : Reg) (n : Nibble) (ps : List (Nat × Nat)) :
    Effect (.drw x y n) s (setRedraw (drawPixels x y ps (setV s flagReg 0#8)) true) := by
  rw [drawPixels_eq]
  refine .draw x y n _ _ rfl fun r hr => ?_
  calc getV (drawPixels x y ps (setV s flagReg 0#8)) r
      = getV (setV s flagReg 0#8) r := getV_drawPixels_ne _ x y r ps hr
    _ = getV s r := getV_setV_ne s flagReg r _ hr.symm

/-- A data access whole, or `MemoryRange` and nothing else (R45, R203). -/
theorem effect_withData (n : Nat) (f : State → State) (h : CanRaise i) (hf : Effect i s (f s)) :
    ∃ t, withData s n f = .next t ∧ Effect i s t := by
  rcases withData_cases s n f with hd | hd
  · exact ⟨_, hd, hf⟩
  · exact ⟨_, hd, .fatal .memoryRange h⟩

theorem answers_ret : Answers .ret s := by
  by_cases h : s.sp.val = 0
  · exact ⟨_, popAndGo_empty s h, .fatal .stackUnderflow (.inl rfl)⟩
  · exact ⟨_, popAndGo_live s (by omega), .pop (s.sp.val - 1) (by omega) ⟨s.sp.val - 1, by omega⟩ rfl⟩

theorem answers_call (nnn : Addr12) : Answers (.call nnn) s := by
  by_cases h : s.sp.val < 16
  · exact ⟨_, pushAndGo_free s (zextAddr nnn) h, .push nnn s.sp.val h _ rfl⟩
  · exact ⟨_, pushAndGo_full s (zextAddr nnn) (by omega), .fatal .stackOverflow (.inr (.inl ⟨nnn, rfl⟩))⟩

theorem zextAddr_toNat (nnn : Addr12) : (zextAddr nnn).toNat = nnn.toNat := by
  have := nnn.isLt
  simp only [zextAddr, BitVec.toNat_setWidth]
  omega

/-- The bound of R13 on the target of JP V0: 0xFFF + 0xFF, with no wrap (R104). -/
theorem jpV0_target_le (nnn : Addr12) (b : Byte) : (zextAddr nnn + zextByte b).toNat ≤ 0x10FE := by
  have hn := nnn.isLt
  have hb := b.isLt
  simp only [BitVec.toNat_add, zextAddr_toNat, zextByte, BitVec.toNat_setWidth]
  omega

theorem answers_ldVxK (x : Reg) : Answers (.ldVxK x) s := by
  cases hk : lowestKey s with
  | some k => exact ⟨setV s x (BitVec.ofNat 8 k), by simp [exec, execLdVxK, hk], effect_setV x _ (by simp [WritesReg])⟩
  | none => exact ⟨_, by simp only [exec, execLdVxK, hk], .wait x rfl⟩

/-- Every instruction answers a next state, and only with one of the listed effects. -/
theorem exec_answers (i : Instr) (s : State) : Answers i s := by
  cases i with
  | cls => exact ⟨_, rfl, .clear rfl⟩
  | ret => exact answers_ret
  | jp nnn =>
    refine ⟨_, rfl, .jump nnn _ (.inl rfl) ?_⟩
    have := nnn.isLt
    rw [zextAddr_toNat]; omega
  | call nnn => exact answers_call nnn
  | jpV0 nnn => exact ⟨_, rfl, .jump nnn _ (.inr rfl) (jpV0_target_le nnn _)⟩
  | seKk x kk | sneKk x kk => exact ⟨_, rfl, .skip _ (.inl ⟨x, kk, by simp⟩)⟩
  | seVy x y | sneVy x y => exact ⟨_, rfl, .skip _ (.inr (.inl ⟨x, y, by simp⟩))⟩
  | skp x | sknp x => exact ⟨_, rfl, .skip _ (.inr (.inr ⟨x, by simp⟩))⟩
  | ldKk x kk | addKk x kk => exact ⟨_, rfl, effect_setV x _ (.inl ⟨kk, by simp⟩)⟩
  | ldVy x y | orVy x y | andVy x y | xorVy x y => exact ⟨_, rfl, effect_setV x _ (.inr (.inl ⟨y, by simp⟩))⟩
  | addVy x y | subVy x y | shrVy x y | subnVy x y | shlVy x y =>
    exact ⟨_, rfl, effect_flagThenResult x y _ _ (.inr (.inl ⟨y, by simp⟩)) ⟨x, y, by simp⟩⟩
  | ldVxDt x => exact ⟨_, rfl, effect_setV x _ (.inr (.inr (.inl rfl)))⟩
  | ldVxK x => exact answers_ldVxK x
  | rnd x kk => exact ⟨_, rfl, .random x kk _ rfl⟩
  | ldI nnn => exact ⟨_, rfl, .index _ (.inl ⟨nnn, rfl⟩)⟩
  | addI x => exact ⟨_, rfl, .index _ (.inr (.inl ⟨x, rfl⟩))⟩
  | ldF x => exact ⟨_, rfl, .index _ (.inr (.inr ⟨x, rfl⟩))⟩
  | ldDtVx x => exact ⟨_, rfl, .delay x rfl⟩
  | ldStVx x => exact ⟨_, rfl, .sound x rfl⟩
  | drw x y n =>
    unfold Answers exec execDrw
    exact effect_withData _ _ (by simp [CanRaise]) (effect_draw x y n _)
  | ldB x =>
    unfold Answers exec execLdB
    exact effect_withData _ _ (by simp [CanRaise]) (.mem _ (.inl ⟨x, rfl⟩) (writeBytes_wf _ _ _))
  | ldMemVx x =>
    unfold Answers exec execLdMemVx
    exact effect_withData _ _ (by simp [CanRaise]) (.mem _ (.inr ⟨x, rfl⟩) (writeBytes_wf _ _ _))
  | ldVxMem x =>
    unfold Answers exec execLdVxMem
    exact effect_withData _ _ (by simp [CanRaise]) (effect_bulkLoad x)

theorem effect_of_exec (h : exec i s = .next t) : Effect i s t := by
  obtain ⟨u, hu, he⟩ := exec_answers i s
  cases hu.symm.trans h
  exact he

end Sys2Proof.Proofs
end

section
/-! PROOFS. Who writes what (10_state.md R26, R11): the access matrix read off the effects of an instruction, one lemma for each
piece of state. -/

namespace Sys2Proof.Proofs

open Sys2Proof Sys2Proof.Machine Sys2Proof.Safety

namespace Effect

variable {i : Instr} {s t : State} (he : Effect i s t)
include he

theorem writesIndex (hne : t.i ≠ s.i) : WritesIndex i := by
  cases he with
  | index w h => exact h
  | _ => exact absurd rfl hne

theorem writesSp (hne : t.sp ≠ s.sp) : i = .ret ∨ ∃ nnn, i = .call nnn := by
  cases he with
  | push nnn k hk n h => exact .inr ⟨nnn, h⟩
  | pop k hk n h => exact .inl h
  | _ => exact absurd rfl hne

theorem writesStack (hne : t.stack ≠ s.stack) : ∃ nnn, i = .call nnn := by
  cases he with
  | push nnn k hk n h => exact ⟨nnn, h⟩
  | _ => exact absurd rfl hne

/-- Only LD DT, Vx changes `DT`, and it loads its register (R162). -/
theorem writesDelay (hne : t.dt ≠ s.dt) : ∃ x, i = .ldDtVx x ∧ t.dt = getV s x := by
  cases he with
  | delay x h => exact ⟨x, h, rfl⟩
  | _ => exact absurd rfl hne

theorem writesSound (hne : t.st ≠ s.st) : ∃ x, i = .ldStVx x := by
  cases he with
  | sound x h => exact ⟨x, h⟩
  | _ => exact absurd rfl hne

theorem writesMem (hne : t.mem ≠ s.mem) : WritesMem i := by
  cases he with
  | mem m h hm => exact h
  | _ => exact absurd rfl hne

theorem writesDisp (hne : t.disp ≠ s.disp) : i = .cls ∨ ∃ x y n, i = .drw x y n := by
  cases he with
  | clear h => exact .inl h
  | draw x y n v d h hv => exact .inr ⟨x, y, n, h⟩
  | _ => exact absurd rfl hne

theorem writesRedraw (hne : t.redraw ≠ s.redraw) : i = .cls ∨ ∃ x y n, i = .drw x y n := by
  cases he with
  | clear h => exact .inl h
  | draw x y n v d h hv => exact .inr ⟨x, y, n, h⟩
  | _ => exact absurd rfl hne

theorem writesWaitkey (hne : t.waitkey ≠ s.waitkey) : ∃ x, i = .ldVxK x := by
  cases he with
  | wait x h => exact ⟨x, h⟩
  | _ => exact absurd rfl hne

theorem canRaise (hne : t.fault ≠ s.fault) : CanRaise i := by
  cases he with
  | fatal c h => exact h
  | _ => exact absurd rfl hne

/-- No instruction clears a condition (R204). -/
theorem keepsFault (hs : s.fault ≠ none) : t.fault ≠ none := by
  cases he with
  | fatal c h => exact Option.some_ne_none c
  | _ => exact hs

theorem writesRndCount (hne : t.rndCount ≠ s.rndCount) : ∃ x kk, i = .rnd x kk := by
  cases he with
  | random x kk b h => exact ⟨x, kk, h⟩
  | _ => exact absurd rfl hne

theorem keys_eq : t.keys = s.keys := by
  cases he <;> rfl

theorem schedule_eq : t.schedule = s.schedule := by
  cases he <;> rfl

/-- `PC` is changed by control transfer, by 2 more in a taken skip, and by 2 less in a key wait. -/
theorem writesPc (hne : t.pc ≠ s.pc) :
    i = .ret ∨ (∃ nnn, i = .jp nnn ∨ i = .call nnn ∨ i = .jpV0 nnn) ∨ (IsSkip i ∧ t.pc = s.pc + 2#16) ∨
      ((∃ x, i = .ldVxK x) ∧ t.pc = s.pc - 2#16 ∧ t.waitkey = true) := by
  cases he with
  | pop k hk n h => exact .inl h
  | push nnn k hk n h => exact .inr (.inl ⟨nnn, .inr (.inl h)⟩)
  | jump nnn w h hw => exact .inr (.inl ⟨nnn, h.imp_right .inr⟩)
  | skip b h =>
    cases b with
    | true => exact .inr (.inr (.inl ⟨h, rfl⟩))
    | false => exact absurd rfl hne
  | wait x h => exact .inr (.inr (.inr ⟨⟨x, h⟩, rfl, rfl⟩))
  | _ => exact absurd rfl hne

theorem writesReg (r : Reg) (hne : getV t r ≠ getV s r) : WritesReg i r := by
  cases he with
  | regs v h => exact h r hne
  | random x kk b h =>
    have hxr : x = r := by
      by_contra hx
      exact hne (getV_setV_ne s x r b hx)
    exact hxr ▸ .inl ⟨kk, .inr (.inr h)⟩
  | draw x y n v d h hv =>
    have hf : r = flagReg := by
      by_contra hr
      exact hne (hv r hr)
    exact hf ▸ writesReg_flagReg (.inr ⟨x, y, n, h⟩)
  | _ => exact absurd rfl hne

end Effect

/-- Settles O16: the rows of the access matrix, each by its lemma on the effects of an instruction. -/
theorem accessMatrixWrites : Obligations.AccessMatrixWrites := by
  intro i s t h
  have he := effect_of_exec h
  exact ⟨he.writesIndex, he.writesSp, he.writesStack, fun hne => (he.writesDelay hne).imp fun _ hx => hx.1,
    he.writesSound, he.writesMem, he.writesDisp, he.writesRedraw, he.writesWaitkey, he.canRaise, he.writesRndCount,
    he.keys_eq, he.schedule_eq, he.keepsFault, he.writesPc, he.writesReg⟩

/-- Settles O17: the row of the general registers at register 15; a bulk load that reaches it names it. -/
theorem flagRegisterWriters : Obligations.FlagRegisterWriters := by
  intro i s t h hne
  rcases (effect_of_exec h).writesReg _ hne with hk | ⟨y, hy⟩ | hdt | hkey | ⟨x, rfl, hx⟩ | ⟨-, hflag⟩
  · exact .inr (.inr (.inl hk))
  · rcases hy with hy | hy | hy | hy | hy
    · exact .inr (.inr (.inr (.inl ⟨y, .inl hy⟩)))
    · exact .inr (.inr (.inr (.inl ⟨y, .inr (.inl hy)⟩)))
    · exact .inr (.inr (.inr (.inl ⟨y, .inr (.inr (.inl hy))⟩)))
    · exact .inr (.inr (.inr (.inl ⟨y, .inr (.inr (.inr hy))⟩)))
    · exact .inl ⟨_, y, hy⟩
  · exact .inr (.inr (.inr (.inr (.inl hdt))))
  · exact .inr (.inr (.inr (.inr (.inr (.inl hkey)))))
  · have hx15 : x = 15#4 := by
      have := x.isLt
      apply BitVec.eq_of_toNat_eq
      simp only [BitVec.toNat_ofNat] at hx ⊢
      omega
    exact .inr (.inr (.inr (.inr (.inr (.inr (by rw [hx15]))))))
  · rcases hflag with hf | hd
    · exact .inl hf
    · exact .inr (.inl hd)

end Sys2Proof.Proofs
end

section
/-! PROOFS. What one transition can do (30_encoding.md R60, 60_exceptions.md R220), and the invariants of every transition: `FAULT`
is sticky, `DT` rises only by its load, legal states stay legal. -/

namespace Sys2Proof.Proofs

open Sys2Proof Sys2Proof.Machine Sys2Proof.Safety

/-- `Transition u e t`: the event `e` in `u` may leave `t`. The first four are the outcomes of a `Step` in the order of R206. -/
inductive Transition (u : State) : HostEvent → State → Prop
  | halted (hf : u.fault ≠ none) : Transition u .step u
  | badFetch (hf : u.fault = none) : Transition u .step (setFault u (some .memoryRange))
  | unmatched (hf : u.fault = none) (hpc : u.pc.toNat ≤ 0xFFE) : Transition u .step (afterFetch u)
  | instr (i : Instr) (t : State) (hf : u.fault = none) (hpc : u.pc.toNat ≤ 0xFFE)
      (hi : decodeWord (fetchWord u) = some i) (he : Effect i (afterFetch u) t) : Transition u .step t
  | reset : Transition u .reset (hostReset u)
  | loadRom (bs : List Byte) : Transition u (.loadRom bs) (loadRom bs u)
  | timerTick : Transition u .timerTick (timerTick u)
  | keyDown (k : KeyIdx) : Transition u (.keyDown k) (keyDown k u)
  | keyUp (k : KeyIdx) : Transition u (.keyUp k) (keyUp k u)
  | clearRedraw : Transition u .clearRedraw (clearRedraw u)

variable {s u t : State} {e : HostEvent}

theorem transition_of_coreStep (h : coreStep u = .next t) : Transition u .step t := by
  rcases coreStep_cases u with ⟨hf, hc⟩ | ⟨hf, -, hc⟩ | ⟨hf, hpc, -, hc⟩ | ⟨hf, hpc, i, hi, hc⟩
  · cases hc.symm.trans h
    exact .halted (Option.isSome_iff_ne_none.1 hf)
  · cases hc.symm.trans h
    exact .badFetch hf
  · cases hc.symm.trans h
    exact .unmatched hf hpc
  · exact .instr i t hf hpc hi (effect_of_exec (hc ▸ h))

/-- One transition is one event, the next of the schedule, in the state with that event taken off it. -/
theorem transition_of_step (h : step s = .next t) : Transition (takeEvent s) (nextEvent s) t := by
  change applyEvent (nextEvent s) (takeEvent s) = .next t at h
  cases he : nextEvent s with
  | step => exact transition_of_coreStep (by rwa [he] at h)
  | _ =>
    rw [he] at h
    cases h
    constructor

/-! ### `FAULT` and `DT` -/

/-- A condition in `FAULT` stays until `Reset` (R204, R240). -/
theorem Transition.fault_sticky (h : Transition u e t) (hu : u.fault ≠ none) :
    t.fault = u.fault ∨ (e = .reset ∧ t.fault = none) := by
  cases h with
  | badFetch hf | unmatched hf | instr _ _ hf => exact absurd hf hu
  | reset => exact .inr ⟨rfl, rfl⟩
  | _ => exact .inl rfl

/-- Settles O13, by the cases of a transition. -/
theorem onlyResetClearsFault : Obligations.OnlyResetClearsFault := by
  intro s t c hs h hne
  have hu : (takeEvent s).fault = some c := hs
  rcases (transition_of_step h).fault_sticky (by simp [hu]) with hsame | hreset
  · exact absurd (hsame.trans hu) hne
  · exact hreset

/-- `DT` rises only in a `Step` that runs LD DT, Vx (R16, R162, R212). -/
theorem Transition.delay_rises (h : Transition u e t) (hlt : u.dt.toNat < t.dt.toNat) :
    e = .step ∧ u.fault = none ∧ ∃ x, decodeWord (fetchWord u) = some (.ldDtVx x) ∧ t.dt = getV u x := by
  cases h with
  | instr i _ hf hpc hi he =>
    have hne : t.dt ≠ (afterFetch u).dt := fun hdt => absurd hlt (by simp [hdt])
    obtain ⟨x, rfl, hx⟩ := he.writesDelay hne
    exact ⟨rfl, hf, x, hi, hx⟩
  | reset => exact absurd hlt (Nat.not_lt_zero _)
  | timerTick =>
    have hle : (Machine.timerTick u).dt.toNat ≤ u.dt.toNat := (countDown_toNat u.dt).trans_le (Nat.sub_le _ _)
    exact absurd hlt hle.not_gt
  | _ => exact absurd hlt (lt_irrefl _)

/-- Settles O50, by the cases of a transition. -/
theorem delayTimerRisesOnlyByLoad : Obligations.DelayTimerRisesOnlyByLoad := by
  intro s t h hlt
  exact (transition_of_step h).delay_rises hlt

/-! ### Legal states -/

/-- The state after power-on is legal, whatever the keys and the model's own fields hold. -/
theorem legal_hostReset (s : State) : Legal (hostReset s) := by
  refine ⟨rfl, ?_, fun k => ?_⟩
  · show (0x200#16).toNat ≤ 0x10FE
    decide
  · show ((Vector.replicate 16 0#16)[k]).toNat ≤ 0x1000
    simp

/-- Settles O14: the state after power-on is its own reset. -/
theorem powerOnIsLegal : Obligations.PowerOnIsLegal := legal_hostReset State.reset

/-- An instruction keeps a state legal when `PC` is past a word that could be fetched: a skip and a key wait then stay in range,
and a CALL pushes at most 0x1000 (R13, R103, R104). -/
theorem Effect.legal {i : Instr} (he : Effect i s t) (hmem : Memory.wf s.mem = true) (hst : StackBounded s)
    (hlo : 2 ≤ s.pc.toNat) (hhi : s.pc.toNat ≤ 0x1000) : Legal t := by
  have hpc : PcBounded s := hhi.trans (by decide)
  cases he with
  | mem m h hm => exact ⟨hm hmem, hpc, hst⟩
  | skip b h =>
    refine ⟨hmem, ?_, hst⟩
    have hle : (if b then s.pc + 2#16 else s.pc).toNat ≤ 0x10FE := by
      cases b <;> simp <;> omega
    exact hle
  | wait x h =>
    refine ⟨hmem, ?_, hst⟩
    have hle : (s.pc - 2#16).toNat ≤ 0x10FE := by
      simp; omega
    exact hle
  | jump nnn w h hw => exact ⟨hmem, hw, hst⟩
  | push nnn k hk n h =>
    refine ⟨hmem, ?_, fun j => ?_⟩
    · have := nnn.isLt
      have hle : (zextAddr nnn).toNat ≤ 0x10FE := by
        rw [zextAddr_toNat]; omega
      exact hle
    · have hle : ((s.stack.set k s.pc hk)[j]).toNat ≤ 0x1000 := by
        have := hst j
        simp only [Fin.getElem_fin, Vector.getElem_set] at this ⊢
        split
        · exact hhi
        · exact this
      exact hle
  | pop k hk n h => exact ⟨hmem, (hst ⟨k, hk⟩).trans (by decide), hst⟩
  | _ => exact ⟨hmem, hpc, hst⟩

/-- A fetch in range leaves `PC` past its word, with no wrap (R60). -/
theorem afterFetch_pc_toNat (h : u.pc.toNat ≤ 0xFFE) : (afterFetch u).pc.toNat = u.pc.toNat + 2 := by
  simp; omega

theorem Transition.legal (h : Transition u e t) (hu : Legal u) : Legal t := by
  obtain ⟨hmem, hpc, hst⟩ := hu
  cases h with
  | unmatched hf hin =>
    refine ⟨hmem, ?_, hst⟩
    rw [PcBounded, afterFetch_pc_toNat hin]; omega
  | instr i _ hf hin hi he =>
    have hnext := afterFetch_pc_toNat hin
    exact he.legal hmem hst (by omega) (by omega)
  | reset => exact legal_hostReset u
  | loadRom bs => exact ⟨writeBytes_wf _ _ _ hmem, hpc, hst⟩
  | _ => exact ⟨hmem, hpc, hst⟩

/-- Settles O15: taking an event off the schedule touches no piece that `Legal` speaks of, and every transition keeps it. -/
theorem stepKeepsLegal : Obligations.StepKeepsLegal := by
  intro s t hs h
  have hu : Legal (takeEvent s) := hs
  exact (transition_of_step h).legal hu

end Sys2Proof.Proofs
end

section
/-! PROOFS. `ST`, `REDRAW` and `WAITKEY` are written and never read (10_state.md R17, R21, R23, R28): every operation of a transition
acts on what is visible as it acts on the whole state. -/

namespace Sys2Proof.Proofs

open Sys2Proof Sys2Proof.Machine Sys2Proof.Safety

/-- What a program can see of an answer. -/
def seen : Result → Option State
  | .next t => some (visible t)
  | .fault _ => none
  | .refused _ => none

theorem seen_eq_some {r : Result} {v : State} (h : seen r = some v) : ∃ t, r = .next t ∧ visible t = v := by
  cases r with
  | next t => exact ⟨t, rfl, Option.some.inj h⟩
  | fault c | refused c => exact absurd h (by simp [seen])

variable (s : State)

/-! ### Reads that do not look at the outputs, and updates that commute with hiding them -/

@[simp] theorem visible_fault : (visible s).fault = s.fault := rfl
@[simp] theorem visible_sp : (visible s).sp = s.sp := rfl
@[simp] theorem visible_i : (visible s).i = s.i := rfl
@[simp] theorem visible_mem : (visible s).mem = s.mem := rfl
@[simp] theorem getV_visible (r : Reg) : getV (visible s) r = getV s r := rfl
@[simp] theorem cell_visible (px py : Nat) : cell (visible s) px py = cell s px py := rfl
@[simp] theorem lowestKey_visible : lowestKey (visible s) = lowestKey s := rfl
@[simp] theorem fetchWord_visible : fetchWord (visible s) = fetchWord s := rfl
@[simp] theorem fetchInRange_visible : fetchInRange (visible s) = fetchInRange s := rfl
@[simp] theorem visible_visible : visible (visible s) = visible s := rfl
@[simp] theorem setV_visible (r : Reg) (b : Byte) : setV (visible s) r b = visible (setV s r b) := rfl
@[simp] theorem afterFetch_visible : afterFetch (visible s) = visible (afterFetch s) := rfl
@[simp] theorem takeEvent_visible : takeEvent (visible s) = visible (takeEvent s) := rfl

@[simp] theorem toggleCell_visible (px py : Nat) : toggleCell (visible s) px py = visible (toggleCell s px py) := by
  unfold toggleCell
  split <;> rfl

@[simp] theorem drawPixel_visible (x y : Reg) (r c : Nat) :
    drawPixel x y r c (visible s) = visible (drawPixel x y r c s) := by
  cases hc : cell s (pixelCol (getV s x) c) (pixelRow (getV s y) r) <;> simp [drawPixel, hc]

@[simp] theorem drawPixels_visible (x y : Reg) (ps : List (Nat × Nat)) :
    drawPixels x y ps (visible s) = visible (drawPixels x y ps s) := by
  induction ps generalizing s with
  | nil => rfl
  | cons p rest ih =>
    calc drawPixels x y (p :: rest) (visible s)
        = drawPixels x y rest (drawPixel x y p.1 p.2 (visible s)) := rfl
      _ = visible (drawPixels x y (p :: rest) s) := by rw [drawPixel_visible, ih]; rfl

@[simp] theorem bulkLoad_visible (ks : List Nat) : bulkLoad (visible s) ks = visible (bulkLoad s ks) := by
  induction ks generalizing s with
  | nil => rfl
  | cons k rest ih => exact ih (setV s (regAt k) (readByte s.mem (s.i.toNat + k)))

/-! ### The shared operations that may raise a condition -/

theorem seen_raise (c : Fatal) : seen (raise c (visible s)) = seen (raise c s) := rfl

theorem seen_withData (n : Nat) (f : State → State) (h : visible (f (visible s)) = visible (f s)) :
    seen (withData (visible s) n f) = seen (withData s n f) := by
  unfold withData
  rw [visible_i]
  split
  · exact seen_raise s _
  · exact congrArg some h

theorem seen_pushAndGo (w : Word) : seen (pushAndGo (visible s) w) = seen (pushAndGo s w) := by
  by_cases h : s.sp.val < 16
  · rw [pushAndGo_free s w h, pushAndGo_free (visible s) w h]; rfl
  · have hfull : s.sp.val = 16 := by omega
    rw [pushAndGo_full s w hfull, pushAndGo_full (visible s) w hfull]; rfl

theorem seen_popAndGo : seen (popAndGo (visible s)) = seen (popAndGo s) := by
  by_cases h : s.sp.val = 0
  · rw [popAndGo_empty s h, popAndGo_empty (visible s) h]; rfl
  · have hlive : 0 < s.sp.val := by omega
    rw [popAndGo_live s hlive, popAndGo_live (visible s) hlive]; rfl

/-! ### An instruction and a transition -/

/-- What is seen after an instruction depends only on what was visible before it. -/
theorem seen_exec (i : Instr) : seen (exec i (visible s)) = seen (exec i s) := by
  cases i with
  | ret => exact seen_popAndGo s
  | call nnn => exact seen_pushAndGo s _
  | drw x y n =>
    unfold exec execDrw
    refine seen_withData s _ _ ?_
    simp only [visible_mem, visible_i, setV_visible, drawPixels_visible]
    rfl
  | ldVxMem x =>
    unfold exec execLdVxMem
    refine seen_withData s _ _ ?_
    rw [bulkLoad_visible, visible_visible]
  | ldB x =>
    unfold exec execLdB
    exact seen_withData s _ _ rfl
  | ldMemVx x =>
    unfold exec execLdMemVx
    exact seen_withData s _ _ rfl
  | ldVxK x =>
    simp only [exec, execLdVxK, lowestKey_visible]
    split <;> rfl
  | _ => rfl

theorem seen_coreStep : seen (coreStep (visible s)) = seen (coreStep s) := by
  cases hf : s.fault.isSome with
  | true => simp [coreStep, hf, seen]
  | false =>
    cases hin : fetchInRange s with
    | false => simp [coreStep, hf, hin, seen_raise]
    | true =>
      cases hd : decodeWord (fetchWord s) with
      | none => simp [coreStep, hf, hin, hd, seen]
      | some i => simp [coreStep, hf, hin, hd, seen_exec]

theorem seen_step : seen (step (visible s)) = seen (step s) := by
  change seen (applyEvent (nextEvent s) (visible (takeEvent s))) = seen (applyEvent (nextEvent s) (takeEvent s))
  cases nextEvent s with
  | step => exact seen_coreStep _
  | _ => rfl

/-- Settles O18: both transitions are seen as the transition of the state they have in common. -/
theorem outputsAreNeverRead : Obligations.OutputsAreNeverRead := by
  intro s s' t hv h
  have hseen : seen (step s') = some (visible t) :=
    calc seen (step s') = seen (step (visible s')) := (seen_step s').symm
      _ = seen (step (visible s)) := by rw [hv]
      _ = seen (step s) := seen_step s
      _ = some (visible t) := by rw [h]; rfl
  obtain ⟨t', ht', hvis⟩ := seen_eq_some hseen
  exact ⟨t', ht', hvis.symm⟩

end Sys2Proof.Proofs
end

section
/-! PROOFS. The debug port leaves nothing out (10_state.md R27, 60_exceptions.md R224): each selection fixes its piece of state. -/

namespace Sys2Proof.Proofs

open Sys2Proof Sys2Proof.Machine Sys2Proof.Safety

/-- Widening loses nothing. -/
theorem setWidth_16_inj {w : Nat} (hw : w ≤ 16) {a b : BitVec w} (h : a.setWidth 16 = b.setWidth 16) : a = b := by
  apply BitVec.eq_of_toNat_eq
  simpa [BitVec.toNat_setWidth_of_le hw] using congrArg BitVec.toNat h

theorem flagWord_inj {a b : Bool} (h : flagWord a = flagWord b) : a = b := by
  revert a b; decide

variable {s s' : State}

theorem regs_eq_of_getV (h : ∀ r, getV s r = getV s' r) : s.v = s'.v := by
  ext k hk : 1
  have := h (BitVec.ofNat 4 k)
  simpa [getV, Nat.mod_eq_of_lt hk] using this

theorem sp_eq_of_ofNat (h : BitVec.ofNat 16 s.sp.val = BitVec.ofNat 16 s'.sp.val) : s.sp = s'.sp := by
  have hnat := congrArg BitVec.toNat h
  simp only [BitVec.toNat_ofNat] at hnat
  omega

theorem disp_eq_of_cell (h : ∀ px py, px < 64 → py < 32 → cell s px py = cell s' px py) : s.disp = s'.disp := by
  ext py hy px hx
  have := h px py hx hy
  simpa [cell, hy, BitVec.getElem_eq_testBit_toNat, BitVec.getLsbD] using this

theorem fault_eq_of_faultCode (h : faultCode s = faultCode s') : s.fault = s'.fault := by
  unfold faultCode at h
  split at h <;> split at h <;> simp_all

/-- Canonical memories that read the same at every 12-bit address are the same: beyond those nothing is listed. -/
theorem mem_eq_of_readByte {m m' : Memory} (hm : Memory.wf m = true) (hm' : Memory.wf m' = true)
    (h : ∀ a : Addr12, readByte m a.toNat = readByte m' a.toNat) : m = m' := by
  refine Memory.wf_ext m m' hm hm' fun a => ?_
  by_cases ha : a < Config.memSize
  · simpa [Nat.mod_eq_of_lt ha] using h (BitVec.ofNat 12 a)
  · rw [readByte_outside m 0 a hm ha, readByte_outside m' 0 a hm' ha]

/-- Settles O59: piece by piece, from the selection that reads it. -/
theorem debugPortReadsAllState : Obligations.DebugPortReadsAllState := by
  intro s s' hm hm' h
  have hv : s.v = s'.v := regs_eq_of_getV fun r => setWidth_16_inj (by decide) (h (.v r))
  have hi : s.i = s'.i := h .i
  have hpc : s.pc = s'.pc := h .pc
  have hsp : s.sp = s'.sp := sp_eq_of_ofNat (h .sp)
  have hstack : s.stack = s'.stack := by
    ext k hk : 1
    exact h (.stack ⟨k, hk⟩)
  have hdt : s.dt = s'.dt := setWidth_16_inj (by decide) (h .dt)
  have hst : s.st = s'.st := setWidth_16_inj (by decide) (h .st)
  have hmem : s.mem = s'.mem := mem_eq_of_readByte hm hm' fun a => setWidth_16_inj (by decide) (h (.mem a))
  have hdisp : s.disp = s'.disp := disp_eq_of_cell fun px py hx hy => by
    have hbit := flagWord_inj (h (.disp (BitVec.ofNat 6 px) (BitVec.ofNat 5 py)))
    simpa [dispBit, Nat.mod_eq_of_lt hx, Nat.mod_eq_of_lt hy] using hbit
  have hkeys : s.keys = s'.keys := h .keys
  have hredraw : s.redraw = s'.redraw := flagWord_inj (h .redraw)
  have hwaitkey : s.waitkey = s'.waitkey := flagWord_inj (h .waitkey)
  have hfault : s.fault = s'.fault := fault_eq_of_faultCode (setWidth_16_inj (by decide) (h .fault))
  cases s
  cases s'
  simp only at hv hi hpc hsp hstack hdt hst hmem hdisp hkeys hredraw hwaitkey hfault
  subst_vars
  rfl

end Sys2Proof.Proofs
end

section
/-! PROOFS. What a `Step` reports (60_exceptions.md R200 to R206): an inversion of the report against the `FAULT` the step
leaves, and the fetch out of range (20_memory.md R45). -/

namespace Sys2Proof.Proofs

open Sys2Proof Sys2Proof.Machine

/-- `Reports i pc f r`: the report `r` fits a step that leaves `f` in `FAULT` and started with `I` = `i` and `PC` = `pc`. One
constructor for each report of a core that is not halted (R205). -/
inductive Reports (i pc : Word) : Option Fatal → StepReport → Prop
  | ok : Reports i pc none .ok
  | unimplemented (op : Word) : Reports i pc none (.unimplemented op)
  | stack (c : Fatal) (hc : c ≠ .memoryRange) : Reports i pc (some c) (.fatalStack c)
  | fetchRange : Reports i pc (some .memoryRange) (.fatalRange .fetch pc.toNat)
  | dataRange : Reports i pc (some .memoryRange) (.fatalRange .data (max i.toNat 0x1000))

variable {s u t : State}

/-- When the next event is `Step`, the transition is the step cycle on the state with that event taken (R60, R220). -/
theorem step_eq_coreStep (h : nextEvent s = .step) : step s = coreStep (takeEvent s) := by
  unfold step advance
  rw [h]
  rfl

theorem fetchInRange_eq_false (h : u.pc.toNat > 0xFFE) : fetchInRange u = false := by
  simpa [fetchInRange] using h

theorem fetchInRange_eq_true (h : u.pc.toNat ≤ 0xFFE) : fetchInRange u = true := by
  simpa [fetchInRange] using h

/-! ### The state and the report of each outcome -/

theorem coreStep_badFetch (hf : u.fault = none) (hpc : u.pc.toNat > 0xFFE) :
    coreStep u = .next (setFault u (some .memoryRange)) := by
  simp [coreStep, hf, fetchInRange_eq_false hpc, raise]

theorem stepReport_badFetch (hf : u.fault = none) (hpc : u.pc.toNat > 0xFFE) :
    stepReport u = .fatalRange .fetch u.pc.toNat := by
  simp [stepReport, hf, fetchInRange_eq_false hpc]

theorem stepReport_unmatched (hf : u.fault = none) (hpc : u.pc.toNat ≤ 0xFFE)
    (hd : decodeWord (fetchWord u) = none) : stepReport u = .unimplemented (fetchWord u) := by
  simp [stepReport, hf, fetchInRange_eq_true hpc, hd]

theorem stepReport_instr {i : Instr} (hf : u.fault = none) (hpc : u.pc.toNat ≤ 0xFFE)
    (hd : decodeWord (fetchWord u) = some i) : stepReport u = execReport i (afterFetch u) := by
  simp [stepReport, hf, fetchInRange_eq_true hpc, hd]

/-- Settles O8, from the state and the report of a fetch out of range. -/
theorem fetchOutOfRangeIsFatal : Obligations.FetchOutOfRangeIsFatal := by
  intro s he hf hpc
  have hstep : step s = .next (setFault (takeEvent s) (some .memoryRange)) :=
    (step_eq_coreStep he).trans (coreStep_badFetch hf hpc)
  exact ⟨hstep, stepReport_badFetch hf hpc⟩

/-! ### The report fits the `FAULT` left -/

/-- An instruction's report fits the `FAULT` it leaves; its data accesses start at `I` (R45, R200). -/
theorem reports_execReport {i : Instr} (pc : Word) (h : exec i s = .next t) :
    Reports s.i pc t.fault (execReport i s) := by
  have hafter : faultAfter (exec i s) = t.fault := congrArg faultAfter h
  unfold execReport
  rw [hafter]
  cases t.fault with
  | none => exact .ok
  | some c =>
    cases c with
    | memoryRange => exact .dataRange
    | stackOverflow | stackUnderflow => exact .stack _ (by decide)

/-- The report of a `Step` of a core that is not halted fits the `FAULT` it leaves (R206). -/
theorem reports_stepReport (hf : u.fault = none) (h : coreStep u = .next t) :
    Reports u.i u.pc t.fault (stepReport u) := by
  rcases coreStep_cases u with ⟨hhalt, -⟩ | ⟨-, hpc, hc⟩ | ⟨-, hpc, hd, hc⟩ | ⟨-, hpc, i, hd, hc⟩
  · simp [hf] at hhalt
  · cases hc.symm.trans h
    rw [stepReport_badFetch hf hpc]
    exact .fetchRange
  · cases hc.symm.trans h
    rw [stepReport_unmatched hf hpc hd, afterFetch_fault, hf]
    exact .unimplemented _
  · rw [stepReport_instr hf hpc hd]
    exact reports_execReport u.pc (hc.symm.trans h)

/-- The reports of a step that is not fatal are `Ok` and the unmatched word (R205). -/
theorem Reports.fault_eq_none_iff {i pc : Word} {f : Option Fatal} {r : StepReport} (h : Reports i pc f r) :
    f = none ↔ r = .ok ∨ ∃ op, r = .unimplemented op := by
  cases h <;> simp

theorem Reports.fault_of_fatalStack {i pc : Word} {f : Option Fatal} {c : Fatal} (h : Reports i pc f (.fatalStack c)) :
    f = some c ∧ c ≠ .memoryRange := by
  cases h with
  | stack _ hc => exact ⟨rfl, hc⟩

theorem Reports.fault_of_fetchRange {i pc : Word} {f : Option Fatal} {a : Nat}
    (h : Reports i pc f (.fatalRange .fetch a)) : f = some .memoryRange ∧ a = pc.toNat := by
  cases h with
  | fetchRange => exact ⟨rfl, rfl⟩

theorem Reports.fault_of_dataRange {i pc : Word} {f : Option Fatal} {a : Nat}
    (h : Reports i pc f (.fatalRange .data a)) : f = some .memoryRange ∧ a = max i.toNat 0x1000 := by
  cases h with
  | dataRange => exact ⟨rfl, rfl⟩

/-- Settles O12: the report fits the `FAULT` left, and taking the event off the schedule changes neither `I` nor `PC`. -/
theorem reportAgreesWithFault : Obligations.ReportAgreesWithFault := by
  intro s t he hf h
  have hcore : coreStep (takeEvent s) = .next t := (step_eq_coreStep he).symm.trans h
  have hfits : Reports s.i s.pc t.fault (stepReport (takeEvent s)) := reports_stepReport (u := takeEvent s) hf hcore
  refine ⟨hfits.fault_eq_none_iff, fun c hc => ?_, fun k a hka => ?_⟩
  · exact (hc ▸ hfits).fault_of_fatalStack
  · cases k with
    | fetch => exact (hka ▸ hfits).fault_of_fetchRange
    | data => exact (hka ▸ hfits).fault_of_dataRange

end Sys2Proof.Proofs
end

section
/-! PROOFS. Bytes where they were put: a register stored by LD [I], Vx and then fetched as code (20_memory.md R48, R52), and
the font after power-on (R55). -/

namespace Sys2Proof.Proofs

open Sys2Proof Sys2Proof.Machine

variable (s : State)

/-! ### A store and the fetch after it -/

/-- The number an instruction word is, high byte first (R42). -/
theorem wordOfBytes_toNat (hi lo : Byte) : (wordOfBytes hi lo).toNat = hi.toNat * 256 + lo.toNat := toNat_append_eq hi lo

theorem bulkValues_getD (n : Nat) (r : Reg) (h : r.toNat < n) : (bulkValues s n).getD r.toNat 0#8 = getV s r := by
  simp [bulkValues, regAt, h]

/-- After an in-range store of `V[0]` to `V[x]` from `I`, each of them stands at its place (R144). -/
theorem readByte_bulkStore (x r : Reg) (hin : s.i.toNat + x.toNat ≤ 0xFFF) (hr : r.toNat ≤ x.toNat) :
    readByte (writeBytes s.mem s.i.toNat (bulkValues s (bulkCount x))) (s.i.toNat + r.toNat) = getV s r := by
  have hfit : s.i.toNat + (bulkValues s (bulkCount x)).length ≤ Config.memSize := by
    rw [bulkValues_length]
    exact Nat.succ_le_succ hin
  have hcount : r.toNat < bulkCount x := Nat.lt_succ_of_le hr
  rw [readByte_writeBytes _ _ _ _ hfit, bulkValues_length, if_pos (by omega), Nat.add_sub_cancel_left,
    bulkValues_getD s _ r hcount]

/-- Settles O43: the two bytes at `PC` = `I` are `V[0]` and `V[1]`. -/
theorem storeSeenByNextFetch : Obligations.StoreSeenByNextFetch := by
  intro x s hx hpc hin
  refine ⟨_, execLdMemVx_inRange s x hin, rfl, ?_⟩
  have h0 := readByte_bulkStore s x 0#4 hin (Nat.zero_le _)
  have h1 := readByte_bulkStore s x 1#4 hin hx
  rw [fetchWord, wordOfBytes_toNat, setMem_mem, setMem_pc, ← hpc]
  exact congrArg₂ (fun hi lo : Byte => hi.toNat * 256 + lo.toNat) h0 h1

/-! ### The font after power-on -/

/-- In a list of rows of equal length, laid end to end, row `d` begins at `n * d`. -/
theorem getD_flatten_of_length {α : Type} (rows : List (List α)) (n d r : Nat) (dflt : α)
    (hlen : ∀ row ∈ rows, row.length = n) (hd : d < rows.length) (hr : r < n) :
    rows.flatten.getD (n * d + r) dflt = (rows.getD d []).getD r dflt := by
  induction rows generalizing d with
  | nil => exact absurd hd (Nat.not_lt_zero d)
  | cons row rest ih =>
    have hrow : row.length = n := hlen row List.mem_cons_self
    cases d with
    | zero =>
      rw [List.flatten_cons, Nat.mul_zero, Nat.zero_add, List.getD_append _ _ _ _ (by omega), List.getD_cons_zero]
    | succ d =>
      have hskip : n * (d + 1) + r - row.length = n * d + r := by
        rw [Nat.mul_succ]; omega
      rw [List.flatten_cons, List.getD_append_right _ _ _ _ (by rw [Nat.mul_succ]; omega), hskip, List.getD_cons_succ]
      exact ih d (fun row' h => hlen row' (List.mem_cons_of_mem _ h)) (Nat.lt_of_succ_lt_succ hd)

theorem glyph_length : ∀ glyph ∈ glyphs, glyph.length = Config.glyphBytes := by decide

/-- Above the font, memory after power-on is 0 (R25, decision D12). -/
theorem resetByte_above_font (a : Nat) (h : 0x50 ≤ a) : resetByte a = 0#8 := List.getD_eq_default _ _ h

/-- Settles O58: every glyph is five bytes, and the font ends at 0x04F. -/
theorem fontInPlaceAtPowerOn : Obligations.FontInPlaceAtPowerOn := by
  refine ⟨fun d r hd hr => ?_, fun a ha _ => resetByte_above_font a ha⟩
  exact getD_flatten_of_length glyphs Config.glyphBytes d r 0#8 glyph_length hd hr

end Sys2Proof.Proofs
end

section
/-! PROOFS. The decoder and the encoder are inverse to each other, and both agree with the masks of the opcode table and with the
list of unmatched words (30_encoding.md R61 to R66, R70, R71). -/

namespace Sys2Proof.Proofs

open Sys2Proof Sys2Proof.Laws

variable {op : Word} {i j : Instr}

/-! ### From an instruction to its word and back -/

/-- The word of an instruction decodes to it: each field of a format's word is what the format was made of (R62, R64), and the
families that select by a low field find their selector there. -/
theorem decodeWord_encode (i : Instr) : decodeWord (encode i) = some i := by
  cases i with
  | cls | ret => rfl
  | jp | call | ldI | jpV0 | seKk | sneKk | ldKk | addKk | rnd | seVy | sneVy | drw => simp [encode, decodeWord]
  | ldVy | orVy | andVy | xorVy | addVy | subVy | shrVy | subnVy | shlVy => simp [encode, decodeWord, decodeAlu]
  | skp | sknp => simp [encode, decodeWord, decodeKey]
  | ldVxDt | ldVxK | ldDtVx | ldStVx | addI | ldF | ldB | ldMemVx | ldVxMem => simp [encode, decodeWord, decodeMisc]

/-- The decoder on bytes succeeds when their first two make a word that decodes, and leaves the rest (R42, R61). -/
theorem decode_eq_ok_iff (hi lo : Byte) (rest rest' : List Byte) :
    decode (hi :: lo :: rest) = .ok (i, rest') ↔ decodeWord (wordOfBytes hi lo) = some i ∧ rest = rest' := by
  cases hd : decodeWord (wordOfBytes hi lo) <;> simp [decode, hd]

/-- Settles O2: an instruction's two bytes make its word again, and the word decodes to the instruction. -/
theorem decodeOfEncode : Obligations.DecodeOfEncode := by
  intro i rest
  refine (decode_eq_ok_iff _ _ _ _).2 ⟨?_, rfl⟩
  rw [wordOfBytes_highByte_lowByte, decodeWord_encode]

/-! ### A word is made of its fields, in each format (R62, R64) -/

section Fields

variable {f : Nat} (hf : (fieldFamily op).toNat = f)
include hf

theorem formatA_fields : formatA (BitVec.ofNat 4 f) (fieldNnn op) = op := by
  have hfam := fieldFamily_toNat op
  apply BitVec.eq_of_toNat_eq
  rw [formatA_toNat, BitVec.toNat_ofNat, fieldNnn_toNat]
  omega

theorem formatXK_fields : formatXK (BitVec.ofNat 4 f) (fieldX op) (fieldKk op) = op := by
  have hfam := fieldFamily_toNat op
  apply BitVec.eq_of_toNat_eq
  rw [formatXK_toNat, BitVec.toNat_ofNat, fieldX_toNat, fieldKk_toNat]
  omega

theorem formatXYN_fields : formatXYN (BitVec.ofNat 4 f) (fieldX op) (fieldY op) (fieldN op) = op := by
  have hfam := fieldFamily_toNat op
  apply BitVec.eq_of_toNat_eq
  rw [formatXYN_toNat, BitVec.toNat_ofNat, fieldX_toNat, fieldY_toNat, fieldN_toNat]
  omega

/-- With the low byte known as a number, as the decoder's selectors know it. -/
theorem formatXK_selected {k : Nat} (hk : (fieldKk op).toNat = k) :
    formatXK (BitVec.ofNat 4 f) (fieldX op) (BitVec.ofNat 8 k) = op := by
  rw [← hk, BitVec.ofNat_toNat, BitVec.setWidth_eq, formatXK_fields hf]

/-- With the low nibble known as a number, as the decoder's selectors know it. -/
theorem formatXYN_selected {n : Nat} (hn : (fieldN op).toNat = n) :
    formatXYN (BitVec.ofNat 4 f) (fieldX op) (fieldY op) (BitVec.ofNat 4 n) = op := by
  rw [← hn, BitVec.ofNat_toNat, BitVec.setWidth_eq, formatXYN_fields hf]

end Fields

/-! ### From a word to its instruction and back -/

theorem encode_of_decodeSystem (h : decodeSystem op = some i) : encode i = op := by
  unfold decodeSystem at h
  split_ifs at h with hcls hret
  · cases h
    exact hcls.symm
  · cases h
    exact hret.symm

theorem encode_of_decodeAlu (hf : (fieldFamily op).toNat = 0x8) (h : decodeAlu op = some i) : encode i = op := by
  unfold decodeAlu at h
  split at h <;> cases h
  all_goals exact formatXYN_selected hf ‹_›

theorem encode_of_decodeKey (hf : (fieldFamily op).toNat = 0xE) (h : decodeKey op = some i) : encode i = op := by
  unfold decodeKey at h
  split at h <;> cases h
  all_goals exact formatXK_selected hf ‹_›

theorem encode_of_decodeMisc (hf : (fieldFamily op).toNat = 0xF) (h : decodeMisc op = some i) : encode i = op := by
  unfold decodeMisc at h
  split at h <;> cases h
  all_goals exact formatXK_selected hf ‹_›

/-- A word that decodes is the word of what it decodes to: the decoder drops no bit of it (R61, R65). The cases are the
families in order, `h_1` being family 0 and `h_17` no family. -/
theorem encode_of_decodeWord (h : decodeWord op = some i) : encode i = op := by
  unfold decodeWord at h
  split at h
  case h_1 => exact encode_of_decodeSystem h
  case h_9 hf => exact encode_of_decodeAlu hf h
  case h_15 hf => exact encode_of_decodeKey hf h
  case h_16 hf => exact encode_of_decodeMisc hf h
  case h_6 hf | h_10 hf =>
    split_ifs at h with hn
    cases h
    exact formatXYN_selected hf (congrArg BitVec.toNat hn)
  all_goals cases h
  case h_14 hf => exact formatXYN_fields hf
  case h_2 hf | h_3 hf | h_11 hf | h_12 hf => exact formatA_fields hf
  case h_4 hf | h_5 hf | h_7 hf | h_8 hf | h_13 hf => exact formatXK_fields hf

/-- Settles O3: in each family the operands, the family and the selector are the whole word. -/
theorem encodeOfDecode : Obligations.EncodeOfDecode := fun _ _ => encode_of_decodeWord

/-! ### The rows of the opcode table -/

theorem matchesRow_iff : matchesRow op i = true ↔ op &&& (rowOf i).2 = (rowOf i).1 := beq_iff_eq

/-- The word of an instruction matches its own row (R65). -/
theorem matchesRow_encode (i : Instr) : matchesRow (encode i) i = true := by
  rw [matchesRow_iff]
  cases i with
  | cls | ret => rfl
  | jp | call | ldI | jpV0 => exact formatA_masked _ _
  | seKk | sneKk | ldKk | addKk | rnd => exact formatXK_family _ _ _
  | drw => exact formatXYN_family _ _ _ _
  | seVy | sneVy | ldVy | orVy | andVy | xorVy | addVy | subVy | shrVy | subnVy | shlVy =>
    exact formatXYN_selector _ _ _ _
  | skp | sknp | ldVxDt | ldVxK | ldDtVx | ldStVx | addI | ldF | ldB | ldMemVx | ldVxMem => exact formatXK_selector _ _ _

/-- A field that a mask keeps whole is the same field of the masked word. -/
theorem field_of_masked {m v : Word} {a n : Nat} (hm : m.extractLsb' a n = BitVec.allOnes n) (h : op &&& m = v) :
    op.extractLsb' a n = v.extractLsb' a n := by
  rw [← h, BitVec.extractLsb'_and, hm, BitVec.and_allOnes]

/-- Every row's mask keeps the family (R65). -/
theorem family_of_matchesRow (h : matchesRow op j = true) :
    (fieldFamily op).toNat = (rowOf j).1.toNat / 4096 % 16 := by
  have hf : fieldFamily op = fieldFamily (rowOf j).1 :=
    field_of_masked (by cases j <;> simp [rowOf]) (matchesRow_iff.1 h)
  rw [hf, fieldFamily_toNat]

/-- The masks of format XY keep the selector nibble (R64, R65). -/
theorem n_of_matchesRow (hm : (rowOf j).2 = 0xF00F#16) (h : matchesRow op j = true) :
    (fieldN op).toNat = (rowOf j).1.toNat % 16 := by
  have hn : fieldN op = fieldN (rowOf j).1 := field_of_masked (by simp [hm]) (matchesRow_iff.1 h)
  rw [hn, fieldN_toNat]

/-- The masks of format X keep the selector byte (R64, R65). -/
theorem kk_of_matchesRow (hm : (rowOf j).2 = 0xF0FF#16) (h : matchesRow op j = true) :
    (fieldKk op).toNat = (rowOf j).1.toNat % 256 := by
  have hk : fieldKk op = fieldKk (rowOf j).1 := field_of_masked (by simp [hm]) (matchesRow_iff.1 h)
  rw [hk, fieldKk_toNat]

/-- A word that matches the row of an instruction decodes to an instruction of that row: the mask of the row keeps the
fields that the decoder selects by (R60, R65). -/
theorem decodeWord_of_matchesRow (h : matchesRow op j = true) : ∃ k, decodeWord op = some k ∧ rowOf k = rowOf j := by
  have hf := family_of_matchesRow h
  cases j with
  | cls | ret =>
    have hop : op = _ := (BitVec.and_allOnes).symm.trans (matchesRow_iff.1 h)
    subst hop
    exact ⟨_, rfl, rfl⟩
  | jp | call | ldI | jpV0 | seKk | sneKk | ldKk | addKk | rnd | drw =>
    simp [decodeWord, hf, rowOf]
  | seVy | sneVy | ldVy | orVy | andVy | xorVy | addVy | subVy | shrVy | subnVy | shlVy =>
    have hn := n_of_matchesRow rfl h
    simp [decodeWord, decodeAlu, hf, hn, rowOf, ← BitVec.toNat_inj]
  | skp | sknp | ldVxDt | ldVxK | ldDtVx | ldStVx | addI | ldF | ldB | ldMemVx | ldVxMem =>
    have hk := kk_of_matchesRow rfl h
    simp [decodeWord, decodeKey, decodeMisc, hf, hk, rowOf]

/-- A word that decodes matches the row of what it decodes to, being that instruction's word. -/
theorem matchesRow_of_decodeWord (h : decodeWord op = some i) : matchesRow op i = true :=
  encode_of_decodeWord h ▸ matchesRow_encode i

/-- Settles O4: any row the word matches is the row of what it decodes to, and it decodes to one instruction. -/
theorem oneRowPerWord : Obligations.OneRowPerWord := by
  intro op i h
  refine ⟨matchesRow_of_decodeWord h, fun j hj => ?_⟩
  obtain ⟨k, hk, hrow⟩ := decodeWord_of_matchesRow hj
  obtain rfl : i = k := Option.some.inj (h.symm.trans hk)
  exact hrow.symm

/-- The words that decode to nothing are those that match no row (R70). -/
theorem decodeWord_eq_none_iff_matchesRow : decodeWord op = none ↔ ∀ i, matchesRow op i = false := by
  constructor
  · intro h i
    rw [← Bool.not_eq_true]
    intro hi
    obtain ⟨k, hk, -⟩ := decodeWord_of_matchesRow hi
    cases h.symm.trans hk
  · intro h
    rw [Option.eq_none_iff_forall_ne_some]
    intro i hi
    cases (h i).symm.trans (matchesRow_of_decodeWord hi)

/-! ### The list of unmatched words (R71), family by family -/

theorem decodeSystem_eq_none_iff : decodeSystem op = none ↔ systemWordOk op = false := by
  unfold decodeSystem systemWordOk
  split_ifs <;> simp_all

theorem lowNibbleZero_eq_false_iff : lowNibbleZero op = false ↔ fieldN op ≠ 0#4 := beq_eq_false_iff_ne

theorem decodeAlu_eq_none_iff : decodeAlu op = none ↔ aluSelectorOk op = false := by
  rw [aluSelectorOk, ← fieldN]
  unfold decodeAlu
  split
  case h_10 =>
    simp only [imp_false] at *
    simp [← BitVec.toNat_inj]
    omega
  all_goals simp [← BitVec.toNat_inj, *]

theorem decodeKey_eq_none_iff : decodeKey op = none ↔ keySelectorOk op = false := by
  rw [keySelectorOk, ← fieldKk]
  unfold decodeKey
  split <;> simp_all [← BitVec.toNat_inj]

theorem decodeMisc_eq_none_iff : decodeMisc op = none ↔ miscSelectorOk op = false := by
  rw [miscSelectorOk, ← fieldKk]
  unfold decodeMisc
  split <;> simp_all [← BitVec.toNat_inj]

/-- The decoder and the list of R71 take a word apart by its family, and agree in each; in the families left to the end every
word is an instruction. The cases are numbered as in `encode_of_decodeWord`. -/
theorem decodeWord_eq_none_iff_listed : decodeWord op = none ↔ isInstructionWord op = false := by
  rw [isInstructionWord, ← fieldFamily]
  unfold decodeWord
  split
  case h_1 hf => simpa [hf] using decodeSystem_eq_none_iff
  case h_9 hf => simpa [hf] using decodeAlu_eq_none_iff
  case h_15 hf => simpa [hf] using decodeKey_eq_none_iff
  case h_16 hf => simpa [hf] using decodeMisc_eq_none_iff
  case h_6 hf | h_10 hf =>
    simp only [hf, lowNibbleZero_eq_false_iff]
    split_ifs with hn <;> simp [hn]
  case h_17 =>
    simp only [imp_false] at *
    omega
  all_goals simp [*]

/-- Settles O5: the decoder's `none` against the list of R71, and against the rows of R65. -/
theorem unmatchedWordsAreListed : Obligations.UnmatchedWordsAreListed :=
  fun _ => ⟨decodeWord_eq_none_iff_listed, decodeWord_eq_none_iff_matchesRow⟩

/-- Settles O1: fixed words, each decoded by evaluation. -/
theorem specWordsDecode : Obligations.SpecWordsDecode := by
  unfold Obligations.SpecWordsDecode
  decide

end Sys2Proof.Proofs
end

section
/-! PROOFS. The `Step` of a core that is not halted and whose fetch is in range: the decoded instruction (30_encoding.md R60), or
nothing but the fetch (R70). -/

namespace Sys2Proof.Proofs

open Sys2Proof Sys2Proof.Machine Sys2Proof.Safety

section InRange

variable {u : State} (hf : u.fault = none) (hpc : u.pc.toNat ≤ 0xFFE)
include hf hpc

theorem coreStep_instr {i : Instr} (hd : decodeWord (fetchWord u) = some i) : coreStep u = exec i (afterFetch u) := by
  simp [coreStep, hf, fetchInRange_eq_true hpc, hd]

theorem coreStep_unmatched (hd : decodeWord (fetchWord u) = none) : coreStep u = .next (afterFetch u) := by
  simp [coreStep, hf, fetchInRange_eq_true hpc, hd]

end InRange

/-- The two bytes at `PC` decode as the word fetched there does (R42). -/
theorem decodeWord_fetchWord {s : State} {i : Instr} (h : decode (readBytes s.mem s.pc.toNat 2) = .ok (i, [])) :
    decodeWord (fetchWord s) = some i :=
  ((decode_eq_ok_iff _ _ _ _).1 h).1

/-- Settles O6: the state after the fetch is the one the instruction runs in. -/
theorem stepRunsDecodedInstruction : Obligations.StepRunsDecodedInstruction := by
  intro s i he hf hpc hd
  exact (step_eq_coreStep he).trans (coreStep_instr (u := takeEvent s) hf hpc (decodeWord_fetchWord hd))

/-- Settles O7: a word of R71's list does not decode, so the step is the fetch and the report is the word. -/
theorem unmatchedWordIsNoOp : Obligations.UnmatchedWordIsNoOp := by
  intro s hi lo he hf hpc hhi hlo hlisted
  have hword : fetchWord (takeEvent s) = hi ++ lo := congrArg₂ wordOfBytes hhi hlo
  have hd : decodeWord (fetchWord (takeEvent s)) = none := hword ▸ decodeWord_eq_none_iff_listed.2 hlisted
  have hreport : stepReport (takeEvent s) = .unimplemented (hi ++ lo) :=
    hword ▸ stepReport_unmatched (u := takeEvent s) hf hpc hd
  refine ⟨⟨afterFetch (takeEvent s), (step_eq_coreStep he).trans (coreStep_unmatched hf hpc hd),
    afterFetch_pc_toNat (u := takeEvent s) hpc, rfl, hf, fun _ => rfl, rfl⟩, hreport, ?_⟩
  rw [diagOpcode, hreport]

end Sys2Proof.Proofs
end

section
/-! PROOFS. Control transfer (40_flow.md R101 to R104): the targets of JP and JP V0, and the two sides of the stack. -/

namespace Sys2Proof.Proofs

open Sys2Proof Sys2Proof.Machine Sys2Proof.Safety

variable (s : State) (nnn : Addr12)

/-! ### Jumps -/

theorem onlyPc_setPc (w : Word) : OnlyPc s (setPc s w) := ⟨fun _ _ => rfl, fun _ => rfl, rfl⟩

/-- The register JP V0 adds is the top hexadecimal digit of the address (R104). -/
theorem offsetReg_eq : offsetReg nnn = BitVec.ofNat 4 (nnn.toNat / 256) := by
  apply BitVec.eq_of_toNat_eq
  simp only [offsetReg, toNat_slice_eq, BitVec.toNat_ofNat, Nat.reducePow]

/-- The sum of JP V0 never wraps (R104). -/
theorem jpV0_target_toNat (b : Byte) : (zextAddr nnn + zextByte b).toNat = nnn.toNat + b.toNat := by
  have hn := nnn.isLt
  have hb := b.isLt
  simp only [BitVec.toNat_add, zextAddr_toNat, zextByte, BitVec.toNat_setWidth]
  omega

/-- Settles O19: the target is `nnn` extended with zeros. -/
theorem jpLoadsTarget : Obligations.JpLoadsTarget :=
  fun nnn s => ⟨setPc s (zextAddr nnn), rfl, zextAddr_toNat nnn, onlyPc_setPc s _⟩

/-- Settles O20: the sum does not wrap, and the register it adds is the one the top digit names. -/
theorem jpV0AddsNamedRegister : Obligations.JpV0AddsNamedRegister := by
  intro nnn s
  refine ⟨_, rfl, ?_, jpV0_target_le nnn _, onlyPc_setPc s _⟩
  rw [← offsetReg_eq]
  exact jpV0_target_toNat nnn _

/-! ### The stack -/

/-- Settles O21: the push onto a stack with a free entry, and onto a full one. -/
theorem callPushesOrOverflows : Obligations.CallPushesOrOverflows := by
  intro nnn s
  refine ⟨fun k hk => ?_, pushAndGo_full s (zextAddr nnn)⟩
  have hfree : s.sp.val < 16 := hk ▸ k.isLt
  refine ⟨_, pushAndGo_free s (zextAddr nnn) hfree, ?_, rfl, zextAddr_toNat nnn, fun _ _ => rfl, fun _ => rfl,
    fun j hj => ?_, rfl⟩
  · simp [hk]
  · have hne : s.sp.val ≠ j.val := fun h => hj (h.symm.trans hk)
    exact Vector.getElem_set_ne hfree j.isLt hne

/-- Settles O22: the pop from a stack with a live entry, and from an empty one. -/
theorem retPopsOrUnderflows : Obligations.RetPopsOrUnderflows := by
  refine fun s => ⟨fun k hk => ?_, popAndGo_empty s⟩
  have htop : s.sp.val - 1 = k.val := by omega
  refine ⟨_, popAndGo_live s (by omega), ?_, htop, rfl, fun _ _ => rfl, fun _ => rfl, rfl⟩
  simp [htop]

/-- Settles O23: the entry CALL pushed at `SP` (O21) is the one RET pops (O22). -/
theorem retUndoesCall : Obligations.RetUndoesCall := by
  intro nnn s t u hfree hcall hstack hsp
  obtain ⟨t', hcall', hpushed, hsp', -, -⟩ := (callPushesOrOverflows nnn s).1 ⟨s.sp.val, hfree⟩ rfl
  obtain rfl : t' = t := by
    cases hcall'.symm.trans hcall
    rfl
  obtain ⟨w, hret, hpc, hspw, -⟩ := (retPopsOrUnderflows u).1 ⟨s.sp.val, hfree⟩ (hsp ▸ hsp')
  refine ⟨w, hret, ?_, Fin.ext hspw⟩
  rw [hpc, hstack, hpushed]

end Sys2Proof.Proofs
end

section
/-! PROOFS. The conditional skips (41_skip.md R110 to R116): the three pairs are one pair of complementary skips, each on a
condition of its own. -/

namespace Sys2Proof.Proofs

open Sys2Proof Sys2Proof.Machine Sys2Proof.Safety Sys2Proof.Claims

variable (s : State)

/-- A conditional skip moves `PC` and nothing else, and a taken one by 2 modulo 65536 (R110). -/
theorem skipIf_spec {b : Bool} {p : Prop} [Decidable p] (h : b = true ↔ p) :
    ∃ t, skipIf b s = .next t ∧ OnlyPc s t ∧
      t.pc.toNat = (if p then (s.pc.toNat + 2) % 65536 else s.pc.toNat) := by
  refine ⟨_, rfl, onlyPc_setPc s _, ?_⟩
  simp only [setPc_pc, h]
  split
  · exact BitVec.toNat_add s.pc 2#16
  · rfl

/-- The two skips of a pair: one on a condition, the other on its negation. -/
theorem skipIf_complementary {b : Bool} {p : Prop} [Decidable p] (h : b = true ↔ p) :
    (∃ t, skipIf b s = .next t ∧ OnlyPc s t ∧
      t.pc.toNat = (if p then (s.pc.toNat + 2) % 65536 else s.pc.toNat)) ∧
    (∃ t, skipIf (!b) s = .next t ∧ OnlyPc s t ∧
      t.pc.toNat = (if p then s.pc.toNat else (s.pc.toNat + 2) % 65536)) := by
  have hnot : (!b) = true ↔ ¬p := by rw [Bool.not_eq_true', ← Bool.not_eq_true, h]
  exact ⟨skipIf_spec s h, by simpa only [ite_not] using skipIf_spec s hnot⟩

theorem getV_beq_iff (x : Reg) (b : Byte) : (getV s x == b) = true ↔ vNat s x = b.toNat := by
  rw [beq_iff_eq, vNat, BitVec.toNat_inj]

/-- A byte names a set key when it is at most 15 and that bit of the key flags is 1 (R115, decision D7). -/
theorem keyIsSet_iff (b : Byte) :
    keyIsSet s b = true ↔ b.toNat ≤ 15 ∧ s.keys.toNat / 2 ^ b.toNat % 2 = 1 := by
  rw [keyIsSet, Bool.and_eq_true, decide_eq_true_iff, BitVec.getLsbD, Nat.testBit_eq_decide_div_mod_eq, decide_eq_true_iff]

/-- Settles O24: the pair whose condition is that the register equals the immediate. -/
theorem skipOnImmediate : Obligations.SkipOnImmediate :=
  fun x kk s => skipIf_complementary s (getV_beq_iff s x kk)

/-- Settles O25: the pair whose condition is that the two registers are equal. -/
theorem skipOnRegisters : Obligations.SkipOnRegisters :=
  fun x y s => skipIf_complementary s (getV_beq_iff s x (getV s y))

/-- Settles O26: the pair whose condition is that the register names a set key. -/
theorem skipOnKey : Obligations.SkipOnKey :=
  fun x s => skipIf_complementary s (keyIsSet_iff s (getV s x))

end Sys2Proof.Proofs
end

section
/-! PROOFS. Loads, arithmetic, logic, shifts and the random byte (42_alu.md R120 to R132): what a load of one register leaves,
and the table of the flag-writing shape in numbers, of which the flag-writing instructions are the cases. -/

namespace Sys2Proof.Proofs

open Sys2Proof Sys2Proof.Machine Sys2Proof.Safety Sys2Proof.Claims

variable (s : State) (x y : Reg)

/-! ### One register written, no flag -/

theorem onlyRegs_setV (b : Byte) : OnlyRegs [x] s (setV s x b) :=
  ⟨fun r hr => getV_setV_ne s x r b fun h => hr (List.mem_singleton.2 h.symm), fun _ => rfl, rfl⟩

/-- Writing a register with the value it holds is no change. -/
theorem setV_getV : setV s x (getV s x) = s :=
  congrArg (setRegs s) (Vector.set_getElem_self x.isLt)

/-- Settles O27: a register reads what was written to it, and only that register is written. -/
theorem loadImmediate : Obligations.LoadImmediate :=
  fun x kk s => ⟨_, rfl, getV_setV_self s x kk, onlyRegs_setV s x kk⟩

/-- Settles O28: a byte sum is the sum modulo 256. -/
theorem addImmediateWrapsWithoutFlag : Obligations.AddImmediateWrapsWithoutFlag := by
  intro x kk s
  refine ⟨_, rfl, ?_, onlyRegs_setV s x _⟩
  rw [vNat, getV_setV_self]
  exact BitVec.toNat_add (getV s x) kk

/-- Settles O29: a register written with its own value is no change. -/
theorem loadRegister : Obligations.LoadRegister :=
  fun x _ s => ⟨_, rfl, getV_setV_self s x _, onlyRegs_setV s x _, fun h => h ▸ setV_getV s x⟩

/-- Settles O30: the bits of the bitwise operations. -/
theorem logicBitByBit : Obligations.LogicBitByBit := by
  refine fun x y s => ⟨⟨_, rfl, onlyRegs_setV s x _, fun k _ => ?_⟩, ⟨_, rfl, onlyRegs_setV s x _, fun k _ => ?_⟩,
    ⟨_, rfl, onlyRegs_setV s x _, fun k _ => ?_⟩⟩
  · rw [getV_setV_self, BitVec.getLsbD_or]
  · rw [getV_setV_self, BitVec.getLsbD_and]
  · rw [getV_setV_self, BitVec.getLsbD_xor]

/-! ### The random byte -/

/-- A masked byte has no bit outside the mask. -/
theorem masked_and_not (b kk : Byte) : b &&& kk &&& ~~~kk = 0#8 := by
  rw [BitVec.and_assoc, BitVec.and_not_self]
  exact BitVec.and_zero

/-- Settles O36: the register is the sampled byte masked, whatever was sampled. -/
theorem rndMasksFreeByte : Obligations.RndMasksFreeByte := by
  intro x kk s
  obtain ⟨hregs, hmem, -⟩ := onlyRegs_setV s x (Config.rnd s.rndCount &&& kk)
  refine ⟨_, rfl, fun k _ => ?_, fun hkk => ?_, ?_, rfl, hregs, hmem, rfl⟩ <;> rw [getV_setRndCount, getV_setV_self]
  · exact BitVec.getLsbD_and
  · rw [hkk, BitVec.and_zero]
  · exact masked_and_not _ kk

/-! ### The flags as numbers -/

theorem flagByte_toNat (p : Prop) [Decidable p] : (flagByte (decide p)).toNat = bit p := by
  by_cases h : p <;> simp [flagByte, bit, h]

/-- Bit 0 of a byte as a number (R129). -/
theorem lowBitFlag_toNat (b : Byte) : (lowBitFlag b).toNat = b.toNat % 2 := by
  rw [lowBitFlag, BitVec.toNat_and]
  exact Nat.and_one_is_mod b.toNat

/-- Bit 7 of a byte as a number (R131). -/
theorem highBitFlag_toNat (b : Byte) : (highBitFlag b).toNat = b.toNat / 128 := by
  have hb := b.isLt
  have hshift : (b >>> 7).toNat = b.toNat / 128 := by
    rw [BitVec.toNat_ushiftRight, Nat.shiftRight_eq_div_pow]
  change (lowBitFlag (b >>> 7)).toNat = b.toNat / 128
  rw [lowBitFlag_toNat, hshift]
  omega

/-! ### The flag-writing shape -/

/-- The flag-writing shape changes its destination and `V[15]` only (R120). -/
theorem onlyRegs_flagThenResult (f g : Byte → Byte → Byte) : OnlyRegs [x, 15#4] s (flagThenResult x y f g s) := by
  refine ⟨fun r hr => ?_, fun _ => rfl, flagThenResult_eq s x y f g⟩
  obtain ⟨hx, h15⟩ : r ≠ x ∧ r ≠ flagReg := by simpa [flagReg] using hr
  rw [getV_flagThenResult, if_neg hx.symm, if_neg h15.symm]

/-- From `s` to `t`, the four rows of a flag table: neither operand, the first, the second, or both are register 15, for an
instruction whose flag is `φ` and whose result is `γ` of the numbers in the registers (R127, R128, R130). -/
def FlagTable (φ γ : Nat → Nat → Nat) (x y : Reg) (s t : State) : Prop :=
  (x ≠ 15#4 → y ≠ 15#4 →
    vNat t x = γ (vNat s x) (vNat s y) ∧ vNat t 15#4 = φ (vNat s x) (vNat s y)) ∧
  (x = 15#4 → y ≠ 15#4 → vNat t 15#4 = γ (φ (vNat s x) (vNat s y)) (vNat s y)) ∧
  (x ≠ 15#4 → y = 15#4 →
    vNat t 15#4 = φ (vNat s x) (vNat s y) ∧ vNat t x = γ (vNat s x) (φ (vNat s x) (vNat s y))) ∧
  (x = 15#4 → y = 15#4 → vNat t 15#4 = γ (φ (vNat s x) (vNat s y)) (φ (vNat s x) (vNat s y)))

/-- From `s` to `t`, the flag table of a shift: the flag `φ` reads the second operand only, the result `γ` the first (R129,
R131). -/
def ShiftTable (φ γ : Nat → Nat) (x y : Reg) (s t : State) : Prop :=
  (x ≠ 15#4 → vNat t x = γ (vNat s x) ∧ vNat t 15#4 = φ (vNat s y)) ∧
  (x = 15#4 → vNat t 15#4 = γ (φ (vNat s y)))

section Table

/-! The flag `f` and the result `g` compute `φ` and `γ` on numbers. -/

variable {f g : Byte → Byte → Byte} {φ γ : Nat → Nat → Nat}
  (hf : ∀ a b : Byte, (f a b).toNat = φ a.toNat b.toNat) (hg : ∀ a b : Byte, (g a b).toNat = γ a.toNat b.toNat)

include hf in
/-- Into a destination other than register 15 the flag stays as it was written (R120). -/
theorem vNat_flag_of_ne (hx : x ≠ 15#4) :
    vNat (flagThenResult x y f g s) 15#4 = φ (vNat s x) (vNat s y) := by
  rw [vNat, getV_flagThenResult, if_neg hx, flagReg, if_pos rfl, hf, vNat, vNat]

include hf hg in
/-- The destination holds the result of the operands as they stand after the flag: an operand that is register 15 is the flag
(R120, decision D5). -/
theorem vNat_result :
    vNat (flagThenResult x y f g s) x =
      γ (if x = 15#4 then φ (vNat s x) (vNat s y) else vNat s x)
        (if y = 15#4 then φ (vNat s x) (vNat s y) else vNat s y) := by
  rw [vNat, getV_flagThenResult, if_pos rfl, hg, apply_ite BitVec.toNat, apply_ite BitVec.toNat, hf]
  simp only [flagReg, eq_comm (a := 15#4), vNat]

include hf hg in
theorem flagThenResult_flagTable : FlagTable φ γ x y s (flagThenResult x y f g s) := by
  have hres := vNat_result s x y hf hg
  refine ⟨fun hx hy => ⟨?_, vNat_flag_of_ne s x y hf hx⟩, fun hx hy => ?_,
    fun hx hy => ⟨vNat_flag_of_ne s x y hf hx, ?_⟩, fun hx hy => ?_⟩
  · rwa [if_neg hx, if_neg hy] at hres
  · rw [if_pos hx, if_neg hy] at hres
    rwa [hx] at hres ⊢
  · rwa [if_neg hx, if_pos hy] at hres
  · rw [if_pos hx, if_pos hy] at hres
    rwa [hx] at hres ⊢

end Table

/-! ### Sums and differences -/

theorem carryFlag_toNat (a b : Byte) : (carryFlag a b).toNat = bit (a.toNat + b.toNat > 255) := flagByte_toNat _

theorem greaterFlag_toNat (a b : Byte) : (greaterFlag a b).toNat = bit (a.toNat > b.toNat) := flagByte_toNat _

theorem byte_sub_toNat (a b : Byte) : (a - b).toNat = (256 + a.toNat - b.toNat) % 256 := by
  have hb := b.isLt
  rw [BitVec.toNat_sub]
  omega

theorem bit_le_one (p : Prop) [Decidable p] : bit p ≤ 1 := by
  unfold bit
  split <;> omega

/-- Settles O31: the flag table of the carry and the sum; with both operands register 15 the carry is doubled. -/
theorem addSetsCarry : Obligations.AddSetsCarry := by
  intro x y s
  obtain ⟨hnone, hdst, hsrc, hboth⟩ : FlagTable (fun a b => bit (a + b > 255)) (fun a b => (a + b) % 256) x y s _ :=
    flagThenResult_flagTable s x y carryFlag_toNat BitVec.toNat_add
  refine ⟨_, rfl, onlyRegs_flagThenResult s x y _ _, hnone, hdst, hsrc, fun hx hy => (hboth hx hy).trans ?_⟩
  have hbit := bit_le_one (vNat s x + vNat s y > 255)
  change (bit _ + bit _) % 256 = 2 * bit _
  omega

/-- A difference of equal numbers is 0, as when both operands are register 15 (R128, R130). -/
theorem sub_self_wraps (n : Nat) : (256 + n - n) % 256 = 0 := by
  rw [Nat.add_sub_cancel]

/-- Settles O32: the flag table of the strict comparison and the difference. -/
theorem subSetsStrictFlag : Obligations.SubSetsStrictFlag := by
  intro x y s
  obtain ⟨hnone, hdst, hsrc, hboth⟩ : FlagTable (fun a b => bit (a > b)) (fun a b => (256 + a - b) % 256) x y s _ :=
    flagThenResult_flagTable s x y greaterFlag_toNat byte_sub_toNat
  exact ⟨_, rfl, onlyRegs_flagThenResult s x y _ _, hnone, hdst, hsrc,
    fun hx hy => (hboth hx hy).trans (sub_self_wraps _)⟩

/-- Settles O33: the flag table of O32 with the operands of the comparison and of the difference exchanged. -/
theorem subnSetsStrictFlag : Obligations.SubnSetsStrictFlag := by
  intro x y s
  obtain ⟨hnone, hdst, hsrc, hboth⟩ : FlagTable (fun a b => bit (b > a)) (fun a b => (256 + b - a) % 256) x y s _ :=
    flagThenResult_flagTable s x y (fun a b => greaterFlag_toNat b a) (fun a b => byte_sub_toNat b a)
  exact ⟨_, rfl, onlyRegs_flagThenResult s x y _ _, hnone, hdst, hsrc,
    fun hx hy => (hboth hx hy).trans (sub_self_wraps _)⟩

/-! ### Shifts -/

theorem byte_shiftRight_toNat (a : Byte) : (a >>> 1).toNat = a.toNat / 2 := by
  rw [BitVec.toNat_ushiftRight, Nat.shiftRight_eq_div_pow]

theorem byte_shiftLeft_toNat (a : Byte) : (a <<< 1).toNat = 2 * a.toNat % 256 := by
  rw [BitVec.toNat_shiftLeft, Nat.shiftLeft_eq, Nat.mul_comm]

theorem flagThenResult_shiftTable {f g : Byte → Byte} {φ γ : Nat → Nat} (hf : ∀ b : Byte, (f b).toNat = φ b.toNat)
    (hg : ∀ a : Byte, (g a).toNat = γ a.toNat) :
    ShiftTable φ γ x y s (flagThenResult x y (fun _ b => f b) (fun a _ => g a) s) := by
  have hres := vNat_result s x y (φ := fun _ b => φ b) (γ := fun a _ => γ a) (fun _ => hf) (fun a _ => hg a)
  refine ⟨fun hx => ⟨?_, vNat_flag_of_ne s x y (φ := fun _ b => φ b) (fun _ => hf) hx⟩, fun hx => ?_⟩
  · rwa [if_neg hx] at hres
  · rw [if_pos hx] at hres
    rwa [hx] at hres ⊢

/-- Settles O34: the flag table of a shift; a flag halved is 0. -/
theorem shrFlagFromVy : Obligations.ShrFlagFromVy := by
  intro x y s
  obtain ⟨hne, hflag⟩ : ShiftTable (fun b => b % 2) (fun a => a / 2) x y s _ :=
    flagThenResult_shiftTable s x y lowBitFlag_toNat byte_shiftRight_toNat
  refine ⟨_, rfl, onlyRegs_flagThenResult s x y _ _, hne, fun hx => (hflag hx).trans ?_⟩
  exact Nat.div_eq_of_lt (Nat.mod_lt _ (by decide))

/-- Settles O35: the flag table of a shift; a flag doubled does not wrap. -/
theorem shlFlagFromVy : Obligations.ShlFlagFromVy := by
  intro x y s
  obtain ⟨hne, hflag⟩ : ShiftTable (fun b => b / 128) (fun a => 2 * a % 256) x y s _ :=
    flagThenResult_shiftTable s x y highBitFlag_toNat byte_shiftLeft_toNat
  refine ⟨_, rfl, onlyRegs_flagThenResult s x y _ _, hne, fun hx => (hflag hx).trans ?_⟩
  have hy : vNat s y < 256 := (getV s y).isLt
  have hnowrap : 2 * (vNat s y / 128) < 256 := by omega
  exact Nat.mod_eq_of_lt hnowrap

end Sys2Proof.Proofs
end

section
/-! PROOFS. The index register and memory transfer (43_index_memory.md R140 to R145): a store of bytes from `I` with its frame,
of which the digits and the bulk store are the cases, and the bulk load that reads such a store back. -/

namespace Sys2Proof.Proofs

open Sys2Proof Sys2Proof.Machine Sys2Proof.Safety Sys2Proof.Claims

variable (s : State)

/-! ### The index register -/

theorem onlyI_setI (w : Word) : OnlyI s (setI s w) := ⟨fun _ _ => rfl, fun _ => rfl, rfl⟩

/-- Five times a byte fits the 16 bits of `I` (R142). -/
theorem glyphAddr_toNat (b : Byte) : (glyphAddr b).toNat = b.toNat * 5 := by
  have hfits : b.toNat * 5 < 2 ^ 16 := by omega
  exact Nat.mod_eq_of_lt hfits

/-- A byte added to a word is added to its number, modulo 65536 (R141). -/
theorem add_zextByte_toNat (w : Word) (b : Byte) : (w + zextByte b).toNat = (w.toNat + b.toNat) % 65536 := by
  rw [BitVec.toNat_add, zextByte, BitVec.toNat_setWidth_of_le (by decide)]

/-- Settles O37: the address extended with zeros, and the glyph address, which does not wrap. -/
theorem indexLoads : Obligations.IndexLoads :=
  ⟨fun nnn s => ⟨_, rfl, zextAddr_toNat nnn, onlyI_setI s _⟩,
    fun x s => ⟨_, rfl, glyphAddr_toNat (getV s x), onlyI_setI s _⟩⟩

/-- Settles O38: the sum of a word and a byte. -/
theorem addIndexWraps : Obligations.AddIndexWraps :=
  fun x s => ⟨_, rfl, add_zextByte_toNat s.i (getV s x), onlyI_setI s _⟩

/-! ### Stores from `I` -/

/-- A run of byte stores within memory changes its own bytes only (R47). -/
theorem onlyMemory_writeBytes (a : Nat) (bs : List Byte) (h : a + bs.length ≤ Config.memSize) :
    OnlyMemory a bs.length s (setMem s (writeBytes s.mem a bs)) := by
  refine ⟨fun _ _ => rfl, fun c hc => ?_, rfl⟩
  rw [setMem_mem, readByte_writeBytes bs s.mem a c h, if_neg hc]

/-- Byte `k` of a run of byte stores within memory stands at the `k`-th address (R47). -/
theorem readByte_writeBytes_add (m : Memory) (a k : Nat) (bs : List Byte) (h : a + bs.length ≤ Config.memSize)
    (hk : k < bs.length) : readByte (writeBytes m a bs) (a + k) = bs.getD k 0#8 := by
  rw [readByte_writeBytes bs m a (a + k) h, if_pos (by omega), Nat.add_sub_cancel_left]

@[simp] theorem digits_length (b : Byte) : (digits b).length = 3 := rfl

/-- The hundreds, tens and ones of a byte are bytes, so each digit is stored whole (R143). -/
theorem digits_toNat (b : Byte) :
    ((digits b).getD 0 0#8).toNat = b.toNat / 100 ∧ ((digits b).getD 1 0#8).toNat = b.toNat / 10 % 10 ∧
      ((digits b).getD 2 0#8).toNat = b.toNat % 10 :=
  ⟨Nat.mod_eq_of_lt (by omega), Nat.mod_eq_of_lt (by omega), Nat.mod_eq_of_lt (by omega)⟩

/-- Settles O39: a run of three byte stores, the digits. -/
theorem decimalDigitsStored : Obligations.DecimalDigitsStored := by
  refine fun x s => ⟨fun hin => ?_, execLdB_outOfRange s x⟩
  have hfit : s.i.toNat + (digits (getV s x)).length ≤ Config.memSize := Nat.succ_le_succ hin
  have hat := fun k => readByte_writeBytes_add s.mem s.i.toNat k _ hfit
  obtain ⟨hhundreds, htens, hones⟩ := digits_toNat (getV s x)
  refine ⟨_, execLdB_inRange s x hin, onlyMemory_writeBytes s _ _ hfit, ?_, ?_, ?_⟩
  · exact (congrArg BitVec.toNat (hat 0 (by simp))).trans hhundreds
  · exact (congrArg BitVec.toNat (hat 1 (by simp))).trans htens
  · exact (congrArg BitVec.toNat (hat 2 (by simp))).trans hones

/-- Settles O40: a run of byte stores, the registers in their order. -/
theorem bulkStore : Obligations.BulkStore := by
  refine fun x s => ⟨fun hin => ?_, execLdMemVx_outOfRange s x⟩
  have hlen : (bulkValues s (bulkCount x)).length = x.toNat + 1 := bulkValues_length s _
  refine ⟨_, execLdMemVx_inRange s x hin, ?_, fun r => readByte_bulkStore s x r hin⟩
  exact hlen ▸ onlyMemory_writeBytes s _ _ (hlen ▸ Nat.succ_le_succ hin)

/-! ### Loads from `I` -/

/-- Settles O41: a bulk load gives each register up to `x` its byte, and changes registers only. -/
protected theorem bulkLoad : Obligations.BulkLoad := by
  refine fun x s => ⟨fun hin => ?_, execLdVxMem_outOfRange s x⟩
  have hframe := bulkLoad_eq s (List.range (bulkCount x))
  refine ⟨_, execLdVxMem_inRange s x hin, fun a => ?_, hframe, fun r => ?_⟩
  · rw [hframe]
  · simpa only [bulkCount, Nat.lt_succ_iff] using getV_bulkLoad s (bulkCount x) x.isLt r

/-- Settles O42: the bytes LD [I], Vx stored (O40) are those LD Vx, [I] reads (O41), since the store leaves `I` alone. -/
theorem bulkLoadUndoesStore : Obligations.BulkLoadUndoesStore := by
  intro x s t u hin hstore hmem hi
  obtain ⟨t', hstore', ⟨-, -, hframe⟩, hstored⟩ := (bulkStore x s).1 hin
  obtain rfl : t' = t := by
    cases hstore'.symm.trans hstore
    rfl
  have hiu : u.i = s.i := by rw [hi, hframe]
  obtain ⟨w, hload, -, -, hloaded⟩ := (Proofs.bulkLoad x u).1 (hiu ▸ hin)
  refine ⟨w, hload, fun r hr => ?_⟩
  calc getV w r = readByte u.mem (u.i.toNat + r.toNat) := by rw [hloaded, if_pos hr]
    _ = readByte t'.mem (s.i.toNat + r.toNat) := by rw [hmem, hiu]
    _ = getV s r := hstored r hr

end Sys2Proof.Proofs
end

section
/-! PROOFS. The display instructions (44_display.md R150 to R152): the set bits of a sprite land on different cells, so up to the
first collision DRW meets the cells of the display before it; drawing the bits one after another is then counted by where they
land. -/

namespace Sys2Proof.Proofs

open Sys2Proof Sys2Proof.Machine Sys2Proof.Safety Sys2Proof.Claims

variable (s : State) (x y : Reg)

/-! ### The set bits of a sprite -/

/-- The mask `0x80 >> c` selects bit `7 - c` (R151). -/
theorem spriteBit_eq (b : Byte) {c : Nat} (hc : c < 8) : spriteBit b c = b.getLsbD (7 - c) := by
  have hmask : ∀ c < 8, 0x80#8 >>> c = BitVec.twoPow 8 (7 - c) ∧ BitVec.twoPow 8 (7 - c) ≠ 0#8 := by decide
  obtain ⟨hpow, hne⟩ := hmask c hc
  rw [spriteBit, hpow, BitVec.and_twoPow]
  cases b.getLsbD (7 - c)
  · rfl
  · exact bne_iff_ne.2 hne

theorem zipIdx_readBytes (m : Memory) (a n : Nat) :
    (readBytes m a n).zipIdx = (List.range n).map (fun r => (readByte m (a + r), r)) := by
  apply List.ext_getElem <;> simp [readBytes]

/-- The bits DRW takes are the set bits of the sprite at `I`, in the same order. -/
theorem spritePixels_readBytes (n : Nat) : spritePixels (readBytes s.mem s.i.toNat n) = setBits s n := by
  rw [spritePixels, setBits, zipIdx_readBytes, List.flatMap_map]
  refine List.flatMap_congr fun r _ => congrArg _ (List.filter_congr fun c hc => ?_)
  exact spriteBit_eq _ (List.mem_range.1 hc)

/-- The set bits are those of the `n` by 8 offsets whose bit is 1. -/
theorem setBits_eq_filter (n : Nat) :
    setBits s n = ((List.range n) ×ˢ (List.range 8)).filter
      (fun p => (readByte s.mem (s.i.toNat + p.1)).getLsbD (7 - p.2)) := by
  simp [setBits, SProd.sprod, List.product, List.filter_flatMap, List.filter_map, Function.comp_def]

theorem mem_setBits {n : Nat} {p : Nat × Nat} :
    p ∈ setBits s n ↔ (p.1 < n ∧ p.2 < 8) ∧ (readByte s.mem (s.i.toNat + p.1)).getLsbD (7 - p.2) = true := by
  rw [setBits_eq_filter, List.mem_filter, List.mem_product, List.mem_range, List.mem_range]

theorem nodup_setBits (n : Nat) : (setBits s n).Nodup := by
  rw [setBits_eq_filter]
  exact (List.nodup_range.product List.nodup_range).filter _

/-! ### Where a bit lands -/

/-- Bits less than 64 columns and 32 rows apart land on different cells (R152). -/
theorem landing_inj (f : Nat) {p q : Nat × Nat} (hp : p.1 < 32 ∧ p.2 < 64) (hq : q.1 < 32 ∧ q.2 < 64)
    (h : landing s x y f p = landing s x y f q) : p = q := by
  obtain ⟨hcol, hrow⟩ := Prod.ext_iff.1 h
  simp only [landing] at hcol hrow
  ext <;> omega

/-- The set bits of one sprite land on pairwise different cells (R151). -/
theorem nodup_landing_setBits (f : Nat) {n : Nat} (hn : n ≤ 32) : ((setBits s n).map (landing s x y f)).Nodup := by
  refine (nodup_setBits s n).map_on fun p hp q hq h => landing_inj s x y f ?_ ?_ h
  · have := (mem_setBits s).1 hp; omega
  · have := (mem_setBits s).1 hq; omega

theorem landing_lt (f : Nat) (p : Nat × Nat) : (landing s x y f p).1 < 64 ∧ (landing s x y f p).2 < 32 :=
  ⟨Nat.mod_lt _ (by decide), Nat.mod_lt _ (by decide)⟩

/-- Where a bit lands depends on the registers other than `V[15]` only. -/
theorem landing_congr {s t : State} (h : ∀ r, r ≠ flagReg → getV t r = getV s r) : landing t x y = landing s x y := by
  have hcoord : ∀ (r : Reg) (f : Nat), (if r = 15#4 then f else vNat t r) = if r = 15#4 then f else vNat s r := by
    intro r f
    split
    · rfl
    · exact congrArg BitVec.toNat (h r ‹_›)
  funext f p
  simp only [landing, hcoord]

/-- The coordinates DRW reads at a pixel are where the bit lands with what `V[15]` holds (R151, decision D5). -/
theorem pixel_eq_landing {f : Nat} (hf : vNat s 15#4 = f) (p : Nat × Nat) :
    (pixelCol (getV s x) p.2, pixelRow (getV s y) p.1) = landing s x y f p := by
  have hcoord : ∀ r : Reg, (if r = 15#4 then f else vNat s r) = vNat s r := by
    intro r
    split
    · rw [‹r = 15#4›, hf]
    · rfl
  simp only [landing, hcoord]
  rfl

/-! ### One bit -/

section Pixel

variable {s : State} {x y : Reg} {f : Nat} (hf : vNat s 15#4 = f) (p : Nat × Nat)

theorem landing_drawPixel (a b : Reg) : landing (drawPixel a b p.1 p.2 s) x y = landing s x y :=
  landing_congr x y fun r hr => by rw [getV_drawPixel, if_neg fun h => hr h.1.symm]

include hf

/-- A set bit toggles the cell it lands on and no other (R151). -/
theorem cell_drawPixel_landing (px py : Nat) :
    cell (drawPixel x y p.1 p.2 s) px py = (cell s px py ^^ (landing s x y f p == (px, py))) := by
  rw [cell_drawPixel, ← pixel_eq_landing s x y hf p]
  refine congrArg _ (Bool.eq_iff_iff.2 ?_)
  rw [decide_eq_true_iff, beq_iff_eq, Prod.mk.injEq, eq_comm (a := px), eq_comm (a := py)]

/-- A set bit that lands on a set cell is a collision; without one `V[15]` stays (R151). -/
theorem vNat_flag_drawPixel :
    vNat (drawPixel x y p.1 p.2 s) 15#4 = if cell s (landing s x y f p).1 (landing s x y f p).2 then 1 else f := by
  rw [vNat, getV_drawPixel, ← pixel_eq_landing s x y hf p, ← hf]
  simp only [flagReg, true_and]
  split <;> rfl

end Pixel

/-! ### The bits one after another -/

/-- How many of the bits listed land on (px, py), when each lands as `L` says. -/
def landings (L : Nat × Nat → Nat × Nat) (ps : List (Nat × Nat)) (px py : Nat) : Nat :=
  ps.countP (fun p => L p == (px, py))

theorem odd_eq_bodd (n : Nat) : decide (n % 2 = 1) = n.bodd := by
  rw [Nat.mod_two_of_bodd]
  cases n.bodd <;> rfl

/-- One more bit changes the parity of the cell it lands on (R151). -/
theorem bodd_landings_cons (L : Nat × Nat → Nat × Nat) (p : Nat × Nat) (ps : List (Nat × Nat)) (px py : Nat) :
    (landings L (p :: ps) px py).bodd = ((L p == (px, py)) ^^ (landings L ps px py).bodd) := by
  rw [landings, List.countP_cons, Nat.bodd_add, Bool.xor_comm]
  cases L p == (px, py) <;> rfl

/-- The place in the list of the first bit that lands on a set cell, when each lands as `L` says; its length when none does. -/
def firstHit (s : State) (L : Nat × Nat → Nat × Nat) (ps : List (Nat × Nat)) : Nat :=
  ps.findIdx (fun p => cell s (L p).1 (L p).2)

theorem firstHit_cons_set {L : Nat × Nat → Nat × Nat} {p : Nat × Nat} (ps : List (Nat × Nat))
    (h : cell s (L p).1 (L p).2 = true) : firstHit s L (p :: ps) = 0 := by
  rw [firstHit, List.findIdx_cons, h, cond_true]

theorem firstHit_cons_clear {L : Nat × Nat → Nat × Nat} {p : Nat × Nat} (ps : List (Nat × Nat))
    (h : cell s (L p).1 (L p).2 = false) : firstHit s L (p :: ps) = firstHit s L ps + 1 := by
  rw [firstHit, List.findIdx_cons, h, cond_false, firstHit]

theorem firstHit_congr {s t : State} {L : Nat × Nat → Nat × Nat} {ps : List (Nat × Nat)}
    (h : ∀ p ∈ ps, cell t (L p).1 (L p).2 = cell s (L p).1 (L p).2) : firstHit t L ps = firstHit s L ps := by
  induction ps with
  | nil => rfl
  | cons p ps ih =>
    obtain ⟨hp, hps⟩ := List.forall_mem_cons.1 h
    simp only [firstHit, List.findIdx_cons, hp] at ih ⊢
    rw [ih hps]

variable {s x y}

/-- After a collision every bit lands with `V[15]` = 1, and `V[15]` stays 1. -/
theorem drawPixels_afterCollision (ps : List (Nat × Nat)) (hf : vNat s 15#4 = 1) :
    vNat (drawPixels x y ps s) 15#4 = 1 ∧
    ∀ px py, cell (drawPixels x y ps s) px py = (cell s px py ^^ (landings (landing s x y 1) ps px py).bodd) := by
  induction ps generalizing s with
  | nil => exact ⟨hf, fun px py => by simp [drawPixels, landings]⟩
  | cons p ps ih =>
    obtain ⟨hflag, hcell⟩ := ih ((vNat_flag_drawPixel hf p).trans (ite_self 1))
    refine ⟨hflag, fun px py => (hcell px py).trans ?_⟩
    rw [landing_drawPixel, cell_drawPixel_landing hf, Bool.xor_assoc, bodd_landings_cons]

/-- Bits that land on different cells, drawn with `V[15]` cleared: those up to and including the first collision land with
`V[15]` = 0, those after it with 1, and `V[15]` says whether there was one (R151). -/
theorem drawPixels_sequential (ps : List (Nat × Nat)) (hf : vNat s 15#4 = 0)
    (hps : (ps.map (landing s x y 0)).Nodup) :
    vNat (drawPixels x y ps s) 15#4 = bit (firstHit s (landing s x y 0) ps < ps.length) ∧
    ∀ px py, cell (drawPixels x y ps s) px py = (cell s px py ^^
      (landings (landing s x y 0) (ps.take (firstHit s (landing s x y 0) ps + 1)) px py +
        landings (landing s x y 1) (ps.drop (firstHit s (landing s x y 0) ps + 1)) px py).bodd) := by
  induction ps generalizing s with
  | nil => exact ⟨hf, fun px py => by simp [drawPixels, landings]⟩
  | cons p ps ih =>
    obtain ⟨hp, hps⟩ := List.nodup_cons.1 hps
    have hflag := vNat_flag_drawPixel hf p (x := x) (y := y)
    cases hc : cell s (landing s x y 0 p).1 (landing s x y 0 p).2 with
    | true =>
      obtain ⟨hone, hcell⟩ := drawPixels_afterCollision (x := x) (y := y) ps (hflag.trans (if_pos hc))
      rw [firstHit_cons_set s ps hc]
      refine ⟨hone.trans (if_pos (Nat.succ_pos _)).symm, fun px py => (hcell px py).trans ?_⟩
      rw [landing_drawPixel, cell_drawPixel_landing hf, Bool.xor_assoc, Nat.bodd_add, List.take_succ_cons,
        bodd_landings_cons, List.take_zero, List.drop_succ_cons, List.drop_zero]
      simp [landings]
    | false =>
      have hrest : firstHit (drawPixel x y p.1 p.2 s) (landing s x y 0) ps = firstHit s (landing s x y 0) ps := by
        refine firstHit_congr fun q hq => ?_
        have hne : landing s x y 0 p ≠ landing s x y 0 q := fun h => hp (h ▸ List.mem_map_of_mem hq)
        rw [cell_drawPixel_landing hf, beq_eq_false_iff_ne.2 hne, Bool.xor_false]
      have hland := landing_drawPixel (s := s) (x := x) (y := y) p x y
      obtain ⟨hfirst, hcell⟩ := ih (hflag.trans (by rw [hc, if_neg Bool.false_ne_true])) (hland ▸ hps)
      rw [hland, hrest] at hfirst hcell
      rw [firstHit_cons_clear s ps hc]
      refine ⟨hfirst.trans (by simp [bit]), fun px py => (hcell px py).trans ?_⟩
      rw [cell_drawPixel_landing hf, Bool.xor_assoc, Nat.bodd_add, Nat.bodd_add, ← Bool.xor_assoc (_ == _),
        List.take_succ_cons, bodd_landings_cons, List.drop_succ_cons]

variable (s x y)

/-! ### DRW in every form -/

/-- Drawing changes `V[15]`, the display and `REDRAW` only (R151). -/
theorem onlyDisplay_drawPixels (ps : List (Nat × Nat)) :
    OnlyDisplay [15#4] s (setRedraw (drawPixels x y ps (setV s flagReg 0#8)) true) := by
  refine ⟨fun r hr => ?_, fun a => ?_, ?_⟩
  · have hne : r ≠ flagReg := fun h => hr (List.mem_singleton.2 h)
    rw [getV_setRedraw, getV_drawPixels_ne _ x y r ps hne, getV_setV_ne s flagReg r _ hne.symm]
  · rw [setRedraw_mem, drawPixels_eq]
    rfl
  · rw [drawPixels_eq]
    rfl

/-- Settles O46: the set bits of the sprite, drawn one after another from `V[15]` cleared, land on different cells. -/
theorem drwSequential : Obligations.DrwSequential := by
  refine fun x y n s => ⟨fun hin => ?_, execDrw_outOfRange s x y n⟩
  have hland : landing (setV s flagReg 0#8) x y = landing s x y :=
    landing_congr x y fun r hr => getV_setV_ne s flagReg r _ hr.symm
  have hnodup : ((setBits s n.toNat).map (landing (setV s flagReg 0#8) x y 0)).Nodup :=
    nodup_landing_setBits _ x y 0 (by omega)
  obtain ⟨hflag, hcell⟩ := drawPixels_sequential (setBits s n.toNat) (by simp [vNat, flagReg]) hnodup
  rw [hland] at hflag hcell
  have hexec := execDrw_inRange s x y n hin
  rw [spritePixels_readBytes] at hexec
  refine ⟨_, hexec, onlyDisplay_drawPixels s x y _, rfl, fun px py _ _ => (hcell px py).trans ?_, hflag⟩
  rw [odd_eq_bodd]
  rfl

/-! ### DRW with neither coordinate in register 15 -/

section Latched

variable {s x y} (hx : x ≠ 15#4) (hy : y ≠ 15#4) {n : Nat} {px py : Nat}
include hx hy

/-- Then `V[15]` does not matter. -/
theorem landing_eq (f : Nat) (p : Nat × Nat) :
    landing s x y f p = ((vNat s x + p.2) % 64, (vNat s y + p.1) % 32) := by
  simp only [landing, if_neg hx, if_neg hy]

/-- A cell is covered when some set bit lands on it. -/
theorem covers_iff (f : Nat) : covers s x y n px py = true ↔ ∃ p ∈ setBits s n, landing s x y f p = (px, py) := by
  simp only [covers, List.any_eq_true, List.mem_range, Bool.and_eq_true, decide_eq_true_eq, mem_setBits, landing_eq hx hy,
    Prod.exists, Prod.mk.injEq, eq_comm (b := px), eq_comm (b := py)]
  constructor
  · rintro ⟨r, hr, c, hc, ⟨hbit, hcol⟩, hrow⟩
    exact ⟨r, c, ⟨⟨hr, hc⟩, hbit⟩, hcol, hrow⟩
  · rintro ⟨r, c, ⟨⟨hr, hc⟩, hbit⟩, hcol, hrow⟩
    exact ⟨r, hr, c, hc, ⟨hbit, hcol⟩, hrow⟩

/-- One DRW toggles a covered cell once and no other. -/
theorem odd_toggles (hn : n ≤ 32) : decide (toggles s x y n px py % 2 = 1) = covers s x y n px py := by
  have hcount : toggles s x y n px py = ((setBits s n).map (landing s x y 0)).count (px, py) := by
    have hone : landing s x y 1 = landing s x y 0 := funext fun p => by rw [landing_eq hx hy, landing_eq hx hy]
    rw [toggles, hone, ← List.countP_append, List.take_append_drop, List.count, List.countP_map]
    rfl
  rw [hcount, (nodup_landing_setBits s x y 0 hn).count, Bool.eq_iff_iff, covers_iff hx hy 0, ← List.mem_map]
  split <;> simp [*]

/-- There is a collision exactly when a covered cell was set. -/
theorem beforeCollision_lt_iff : beforeCollision s x y n < (setBits s n).length ↔
    ∃ px py, px < 64 ∧ py < 32 ∧ covers s x y n px py = true ∧ cell s px py = true := by
  rw [beforeCollision, List.findIdx_lt_length]
  constructor
  · rintro ⟨p, hp, hc⟩
    obtain ⟨hcol, hrow⟩ := landing_lt s x y 0 p
    exact ⟨_, _, hcol, hrow, (covers_iff hx hy 0).2 ⟨p, hp, rfl⟩, hc⟩
  · rintro ⟨px, py, -, -, hcov, hc⟩
    obtain ⟨p, hp, hland⟩ := (covers_iff hx hy 0).1 hcov
    exact ⟨p, hp, by rwa [hland]⟩

end Latched

/-- Settles O45: without register 15 as a coordinate, the toggles of O46 are one for each covered cell. -/
theorem drwFlipsCoveredCells : Obligations.DrwFlipsCoveredCells := by
  intro x y n s hx hy hin
  obtain ⟨t, hexec, honly, hredraw, hcell, hflag⟩ := (drwSequential x y n s).1 hin
  refine ⟨t, hexec, honly, hredraw, fun px py hpx hpy => ?_, fun hhit => ?_, fun hclear => ?_⟩
  · rw [hcell px py hpx hpy, odd_toggles hx hy (by omega)]
  · apply BitVec.eq_of_toNat_eq
    exact hflag.trans (if_pos ((beforeCollision_lt_iff hx hy).2 hhit))
  · apply BitVec.eq_of_toNat_eq
    refine hflag.trans (if_neg fun hlt => ?_)
    obtain ⟨px, py, hpx, hpy, hcov, hset⟩ := (beforeCollision_lt_iff hx hy).1 hlt
    exact Bool.false_ne_true ((hclear px py hpx hpy hcov).symm.trans hset)

/-! ### Drawing twice -/

theorem i_of_onlyDisplay {xs : List Reg} {s t : State} (h : OnlyDisplay xs s t) : t.i = s.i := by
  obtain ⟨-, -, hframe⟩ := h
  rw [hframe]

/-- Drawing moves neither the sprite nor its place, so the same cells are covered after it. -/
theorem covers_of_onlyDisplay {s t : State} {x y : Reg} (h : OnlyDisplay [15#4] s t) (hx : x ≠ 15#4) (hy : y ≠ 15#4)
    (n : Nat) : covers t x y n = covers s x y n := by
  have hi := i_of_onlyDisplay h
  obtain ⟨hregs, hmem, -⟩ := h
  have hv : ∀ r, r ≠ 15#4 → vNat t r = vNat s r := fun r hr =>
    congrArg BitVec.toNat (hregs r fun h => hr (List.mem_singleton.1 h))
  funext px py
  simp only [covers, hi, hmem _, hv x hx, hv y hy]

/-- Settles O47: the second draw covers the cells of the first (O45), flipping each back. -/
theorem drawingTwiceRestores : Obligations.DrawingTwiceRestores := by
  intro x y n s t u hx hy hin hfirst hsecond
  obtain ⟨t', hfirst', honly, -, hcellT, -, hclearT⟩ := drwFlipsCoveredCells x y n s hx hy hin
  obtain rfl : t' = t := by
    cases hfirst'.symm.trans hfirst
    rfl
  obtain ⟨u', hsecond', -, -, hcellU, hhitU, -⟩ := drwFlipsCoveredCells x y n t' hx hy (i_of_onlyDisplay honly ▸ hin)
  obtain rfl : u' = u := by
    cases hsecond'.symm.trans hsecond
    rfl
  rw [covers_of_onlyDisplay honly hx hy] at hcellU hhitU
  refine ⟨disp_eq_of_cell fun px py hpx hpy => ?_, fun hbits hclear => ⟨hclearT hclear, hhitU ?_⟩⟩
  · rw [hcellU px py hpx hpy, hcellT px py hpx hpy, Bool.xor_assoc, Bool.xor_self, Bool.xor_false]
  · obtain ⟨p, hp⟩ := List.exists_mem_of_ne_nil _ hbits
    obtain ⟨hcol, hrow⟩ := landing_lt s x y 0 p
    have hcov := (covers_iff hx hy 0).2 ⟨p, hp, rfl⟩
    refine ⟨_, _, hcol, hrow, hcov, ?_⟩
    rw [hcellT _ _ hcol hrow, hclear _ _ hcol hrow hcov, Bool.false_xor]
    exact hcov

/-! ### CLS -/

theorem cell_clearDisp (px py : Nat) : cell (clearDisp s) px py = false := by
  unfold cell clearDisp
  split
  · rw [setDisp_disp, Vector.getElem_replicate, BitVec.getLsbD_zero]
  · rfl

/-- Settles O44: a display of zero rows has no set cell. -/
theorem clsClearsEveryCell : Obligations.ClsClearsEveryCell :=
  fun s => ⟨_, rfl, fun px py _ _ => cell_clearDisp s px py, rfl, fun _ _ => rfl, fun _ => rfl, rfl⟩

end Sys2Proof.Proofs
end

section
/-! PROOFS. Timers and the key wait (45_timer_key.md R160 to R163): LD Vx, K with a key set and with none, and the step that
waits. -/

namespace Sys2Proof.Proofs

open Sys2Proof Sys2Proof.Machine Sys2Proof.Safety Sys2Proof.Claims

variable {s : State} (x : Reg)

/-! ### The key wait -/

/-- With a key set the register takes the index found (R161). -/
theorem execLdVxK_of_lowestKey {k : Nat} (h : lowestKey s = some k) :
    exec (.ldVxK x) s = .next (setV s x (BitVec.ofNat 8 k)) := by
  simp only [exec, execLdVxK, h]

/-- With no key set the instruction goes back to its own address and waits (R161). -/
theorem execLdVxK_noKey (h : s.keys = 0#16) :
    exec (.ldVxK x) s = .next { s with pc := s.pc - 2#16, waitkey := true } := by
  simp only [exec, execLdVxK, (lowestKey_eq_none s).2 h]
  rfl

/-- A key index fits a byte. -/
theorem keyByte_toNat (k : KeyIdx) : (BitVec.ofNat 8 k.toNat).toNat = k.toNat := by
  have hfits : k.toNat < 2 ^ 8 := by omega
  exact Nat.mod_eq_of_lt hfits

/-- Settles O51: the least index of a set key is the key found, and with no set key none is found. -/
theorem keyWait : Obligations.KeyWait := by
  refine fun x s => ⟨fun k hset hleast => ?_, execLdVxK_noKey x⟩
  have hfound : lowestKey s = some k.toNat := (lowestKey_eq_some s k.toNat).2 ⟨k.isLt, hset, hleast⟩
  refine ⟨_, execLdVxK_of_lowestKey x hfound, ?_, onlyRegs_setV s x _⟩
  rw [vNat, getV_setV_self, keyByte_toNat]

/-- Settles O52: the step runs LD Vx, K past the fetch (O6), which takes back the 2 that the fetch added to `PC`. -/
theorem keyWaitStepHoldsPc : Obligations.KeyWaitStepHoldsPc := by
  intro s x he hf hpc hd hkeys
  have hwait := execLdVxK_noKey x (s := afterFetch (takeEvent s)) hkeys
  have hback : (afterFetch (takeEvent s)).pc - 2#16 = s.pc := BitVec.add_sub_cancel s.pc 2#16
  rw [hback] at hwait
  exact (stepRunsDecodedInstruction s _ he hf hpc hd).trans hwait

/-! ### The timers -/

/-- Settles O48: the register is written with the timer. -/
theorem readDelayTimer : Obligations.ReadDelayTimer :=
  fun x s => ⟨_, rfl, getV_setV_self s x s.dt, onlyRegs_setV s x s.dt⟩

/-- The tone is on exactly when the sound timer is not 0 (R223). -/
theorem tone_eq_true_iff : tone s = true ↔ s.st.toNat ≠ 0 :=
  decide_eq_true_iff.trans Nat.pos_iff_ne_zero

/-- Settles O49: each timer is written with the register, and the tone follows the value written to `ST`. -/
theorem writeTimers : Obligations.WriteTimers :=
  fun _ _ => ⟨⟨_, rfl, rfl, fun _ _ => rfl, fun _ => rfl, rfl⟩,
    ⟨_, rfl, rfl, tone_eq_true_iff, fun _ _ => rfl, fun _ => rfl, rfl⟩⟩

end Sys2Proof.Proofs
end

section
/-! PROOFS. Conditions (60_exceptions.md R204, R206, R207): a condition raised is all that a step leaves beyond the fetch, and a
halted core does nothing. -/

namespace Sys2Proof.Proofs

open Sys2Proof Sys2Proof.Machine

variable {s u t : State} {c : Fatal}

/-! ### Conditions are precise -/

/-- An instruction that raises a condition leaves nothing else changed (R207). -/
theorem Effect.eq_setFault {i : Instr} (he : Effect i s t) (hs : s.fault = none) (ht : t.fault = some c) :
    t = setFault s (some c) := by
  cases he with
  | fatal d h => exact congrArg (setFault s) ht
  | _ => exact absurd (hs.symm.trans ht) (Option.some_ne_none c).symm

/-- Only a `Step` raises a condition. -/
theorem Transition.event_of_raises {e : HostEvent} (h : Transition u e t) (hu : u.fault = none) (ht : t.fault = some c) :
    e = .step := by
  cases h with
  | halted | badFetch | unmatched | instr => rfl
  | reset => exact absurd ht.symm (Option.some_ne_none c)
  | _ => exact absurd (hu.symm.trans ht) (Option.some_ne_none c).symm

/-- A step cycle that raises a condition leaves the fetch, when it was in range, and the condition (R203, R207). -/
theorem coreStep_raises (hu : u.fault = none) (h : coreStep u = .next t) (ht : t.fault = some c) :
    t = setFault (if u.pc.toNat ≤ 0xFFE then afterFetch u else u) (some c) := by
  rcases coreStep_cases u with ⟨hhalt, -⟩ | ⟨-, hpc, hc⟩ | ⟨-, hpc, -, hc⟩ | ⟨-, hpc, i, -, hc⟩
  · simp [hu] at hhalt
  · cases hc.symm.trans h
    rw [if_neg (by omega)]
    exact congrArg (setFault u) ht
  · cases hc.symm.trans h
    exact absurd (hu.symm.trans ht) (Option.some_ne_none c).symm
  · rw [if_pos hpc]
    exact (effect_of_exec (hc.symm.trans h)).eq_setFault hu ht

/-- Settles O11: the event is a `Step`, and its step cycle, on the state with that event taken, leaves the fetch and the
condition. -/
theorem conditionsArePrecise : Obligations.ConditionsArePrecise := by
  intro s t c hs h ht
  have he : nextEvent s = .step := (transition_of_step h).event_of_raises hs ht
  have hleft := coreStep_raises (u := takeEvent s) hs ((step_eq_coreStep he).symm.trans h) ht
  exact ⟨he, hleft.trans (apply_ite (setFault · (some c)) _ _ _)⟩

/-! ### The halt -/

theorem coreStep_halted (hu : u.fault = some c) : coreStep u = .next u := by
  simp [coreStep, hu]

theorem stepReport_halted (hu : u.fault = some c) : stepReport u = .halted c := by
  simp [stepReport, hu]

/-- Settles O9: the halt is the first case of the step cycle and of its report. -/
theorem haltedStepChangesNothing : Obligations.HaltedStepChangesNothing :=
  fun s _ he hs => ⟨(step_eq_coreStep he).trans (coreStep_halted (u := takeEvent s) hs),
    stepReport_halted (u := takeEvent s) hs⟩

end Sys2Proof.Proofs
end

section
/-! PROOFS. The host events that act on one piece of state (60_exceptions.md R212, R221, R222), whatever `FAULT` and `WAITKEY` are. -/

namespace Sys2Proof.Proofs

open Sys2Proof Sys2Proof.Machine

/-- With an event at the head of the schedule, the transition is that event, the rest of the schedule still to come (R220). -/
theorem step_of_schedule {s : State} {e : HostEvent} {rest : List HostEvent} (h : s.schedule = e :: rest) :
    step s = applyEvent e (setSchedule s rest) := by
  simp only [step, advance, nextEvent, takeEvent, h, List.head?_cons, Option.getD_some, List.tail_cons]

/-- Settles O53: each timer is counted down. -/
theorem timerTickCountsDown : Obligations.TimerTickCountsDown :=
  fun s _ h => ⟨_, step_of_schedule h, countDown_toNat s.dt, countDown_toNat s.st, rfl⟩

/-- The mask of key `k` is the one flag `k`. -/
theorem getLsbD_keyMask (k : KeyIdx) (j : Nat) : (BitVec.twoPow 16 k.toNat).getLsbD j = decide (j = k.toNat) := by
  have hk : k.toNat < 16 := k.isLt
  simp [BitVec.getLsbD_twoPow, hk, eq_comm]

/-- KeyDown sets its own flag (R221). -/
theorem getLsbD_keyDown (k : KeyIdx) (s : State) (j : Nat) :
    (keyDown k s).keys.getLsbD j = (decide (j = k.toNat) || s.keys.getLsbD j) := by
  rw [keyDown, setKeys_keys, BitVec.getLsbD_or, getLsbD_keyMask, Bool.or_comm]

/-- KeyUp clears its own flag (R221). -/
theorem getLsbD_keyUp (k : KeyIdx) (s : State) {j : Nat} (hj : j < 16) :
    (keyUp k s).keys.getLsbD j = (!decide (j = k.toNat) && s.keys.getLsbD j) := by
  rw [keyUp, setKeys_keys, BitVec.getLsbD_and, BitVec.getLsbD_not, getLsbD_keyMask, decide_eq_true hj, Bool.true_and,
    Bool.and_comm]

/-- Settles O54: each event writes its own flag of the key mask. -/
theorem keyEvents : Obligations.KeyEvents :=
  fun s k rest => ⟨fun h => ⟨_, step_of_schedule h, fun j _ => getLsbD_keyDown k (setSchedule s rest) j, rfl⟩,
    fun h => ⟨_, step_of_schedule h, fun _ hj => getLsbD_keyUp k (setSchedule s rest) hj, rfl⟩⟩

/-- Settles O55: the event is one write to `REDRAW`. -/
theorem clearRedrawEvent : Obligations.ClearRedrawEvent := fun _ _ h => step_of_schedule h

end Sys2Proof.Proofs
end

section
/-! PROOFS. Reset and the load of a ROM (70_reset_and_hazards.md R240, R245), and the end of a run (R247), in which every event but
these two leaves the run. -/

namespace Sys2Proof.Proofs

open Sys2Proof Sys2Proof.Machine Sys2Proof.Safety

variable {s u t : State} {e : HostEvent}

/-! ### LoadRom -/

/-- No byte is stored above 0xFFF (R245, decision D14). -/
theorem writeBytes_outside (bs : List Byte) (m : Memory) (a : Nat) (h : Config.memSize ≤ a) : writeBytes m a bs = m := by
  induction bs generalizing a with
  | nil => rfl
  | cons b rest ih => rw [writeBytes, writeByte_outside m a b h.not_gt, ih (a + 1) (h.trans a.le_succ)]

/-- A run of byte stores that may leave memory is the run of those bytes that stay in it (R245). -/
theorem writeBytes_eq_take (bs : List Byte) (m : Memory) (a : Nat) :
    writeBytes m a bs = writeBytes m a (bs.take (Config.memSize - a)) := by
  induction bs generalizing m a with
  | nil => simp
  | cons b rest ih =>
    by_cases ha : a < Config.memSize
    · have hroom : Config.memSize - a = (Config.memSize - (a + 1)) + 1 := by omega
      rw [hroom, List.take_succ_cons, writeBytes, writeBytes, ih]
    · rw [writeBytes_outside _ m a (Nat.le_of_not_lt ha), writeBytes_outside _ m a (Nat.le_of_not_lt ha)]

/-- What is read after a ROM is loaded: its byte at an address of memory that it reaches, and else what was there (R245). -/
theorem readByte_loadRom (bytes : List Byte) (s : State) (a : Nat) :
    readByte (loadRom bytes s).mem a =
      if 0x200 ≤ a ∧ a ≤ 0xFFF ∧ a < 0x200 + bytes.length then bytes.getD (a - 0x200) 0#8 else readByte s.mem a := by
  have hfits : 0x200 + (bytes.take (0x1000 - 0x200)).length ≤ 0x1000 := by
    rw [List.length_take]; omega
  rw [loadRom, setMem_mem, writeBytes_eq_take, readByte_writeBytes _ _ _ _ hfits, List.length_take]
  by_cases ha : 0x200 ≤ a ∧ a ≤ 0xFFF ∧ a < 0x200 + bytes.length
  · have hkept : a - 0x200 < 0x1000 - 0x200 := by omega
    rw [if_pos ha, if_pos (by omega), List.getD_eq_getElem?_getD, List.getD_eq_getElem?_getD, List.getElem?_take_of_lt hkept]
  · rw [if_neg ha, if_neg (by omega)]

/-- Settles O56: the event is the one run of byte stores, of which those above 0xFFF are dropped. -/
theorem loadRomWritesProgram : Obligations.LoadRomWritesProgram :=
  fun s bytes rest h => ⟨⟨_, step_of_schedule h, readByte_loadRom bytes (setSchedule s rest), rfl⟩, rfl⟩

/-! ### Reset -/

theorem getV_hostReset (s : State) (r : Reg) : getV (hostReset s) r = 0#8 := Vector.getElem_replicate r.isLt

theorem stack_hostReset (s : State) (k : Fin 16) : (hostReset s).stack[k] = 0#16 := Vector.getElem_replicate k.isLt

/-- The display after a reset is a cleared one. -/
theorem cell_hostReset (s : State) (px py : Nat) : cell (hostReset s) px py = false := cell_clearDisp s px py

/-- Memory after a reset: the font, and 0 above it (R25, decision D12). -/
theorem readByte_hostReset (s : State) (a : Nat) :
    readByte (hostReset s).mem a = if a < 80 then font.getD a 0#8 else 0#8 := by
  change resetByte a = _
  split
  · rfl
  · exact resetByte_above_font a (by omega)

/-- Settles O57: each piece of state at its reset value, those made of many cells by their lemma. -/
theorem resetEvent : Obligations.ResetEvent :=
  fun s rest h => ⟨hostReset (setSchedule s rest), step_of_schedule h, getV_hostReset _, rfl, rfl, rfl, stack_hostReset _, rfl,
    rfl, cell_hostReset _, readByte_hostReset _, rfl, rfl, rfl, rfl, rfl⟩

/-! ### The end of a run -/

/-- An address that could be fetched from is held whole by the 12 bits of a JP (R63). -/
theorem zextAddr_setWidth (w : Word) (h : w.toNat ≤ 0xFFE) : zextAddr (w.setWidth 12) = w := by
  apply BitVec.eq_of_toNat_eq
  rw [zextAddr_toNat, BitVec.toNat_setWidth]
  omega

/-- A step at the end of a run is the JP, which takes `PC` back to its own address: what is left of it is the fetch's write to
`WAITKEY` (R60, R102). -/
theorem coreStep_of_runEnded (h : RunEnded u) : coreStep u = .next (setWaitkey u false) := by
  obtain ⟨hf, hpc, hjp⟩ := h
  calc coreStep u
      = exec (.jp (u.pc.setWidth 12)) (afterFetch u) := coreStep_instr hf hpc hjp
    _ = .next (setPc (afterFetch u) (zextAddr (u.pc.setWidth 12))) := rfl
    _ = .next (setWaitkey u false) := by
      rw [zextAddr_setWidth u.pc hpc]
      rfl

/-- The end of a run rests on `FAULT`, `PC` and memory, which only `Reset`, `LoadRom` and a `Step` write. -/
theorem runEnded_of_applyEvent (h : applyEvent e u = .next t) (hu : RunEnded u) :
    RunEnded t ∨ e = .reset ∨ ∃ bytes, e = .loadRom bytes := by
  cases e with
  | step =>
    cases (coreStep_of_runEnded hu).symm.trans h
    exact .inl hu
  | reset => exact .inr (.inl rfl)
  | loadRom bytes => exact .inr (.inr ⟨bytes, rfl⟩)
  | _ =>
    cases h
    exact .inl hu

/-- Settles O60: the next event acts on the state with that event taken off the schedule, where the run has ended too. -/
theorem endedRunStaysEnded : Obligations.EndedRunStaysEnded := by
  intro s t hs h
  have hu : RunEnded (takeEvent s) := hs
  refine ⟨fun he => ?_, runEnded_of_applyEvent h hu⟩
  cases (coreStep_of_runEnded hu).symm.trans ((step_eq_coreStep he).symm.trans h)
  rfl

end Sys2Proof.Proofs
end

section
/-! PROOFS. Totality (30_encoding.md R60, 60_exceptions.md R204, R220): the step cycle and the host events answer from every state. -/

namespace Sys2Proof.Proofs

open Sys2Proof Sys2Proof.Machine

/-- The step cycle answers a next state: the halt, a fetch out of range and an unmatched word are next states of its own, and an
instruction answers one (R60, decision D10). -/
theorem coreStep_answers (u : State) : ∃ t, coreStep u = .next t := by
  rcases coreStep_cases u with ⟨-, hc⟩ | ⟨-, -, hc⟩ | ⟨-, -, -, hc⟩ | ⟨-, -, i, -, hc⟩
  · exact ⟨_, hc⟩
  · exact ⟨_, hc⟩
  · exact ⟨_, hc⟩
  · obtain ⟨t, ht, -⟩ := exec_answers i (afterFetch u)
    exact ⟨t, hc.trans ht⟩

/-- Settles O10: the next event is a `Step`, which is the step cycle, or another event, which answers by itself. -/
theorem everyStepAnswers : Obligations.EveryStepAnswers := by
  intro s
  change ∃ t, applyEvent (nextEvent s) (takeEvent s) = .next t
  rcases applyEvent_cases (takeEvent s) (nextEvent s) with ⟨-, hstep⟩ | ⟨-, hanswer⟩
  · rw [hstep]
    exact coreStep_answers (takeEvent s)
  · exact hanswer

end Sys2Proof.Proofs
end
